-- ==== Sys2Proof/Word.lean ====
section
/-! DEFINITION. The two word types of the block (00_scope.md R6, R9): the data bus and every register except PC are
8 bits wide, the address bus and PC are 16 bits wide. -/

namespace Sys2Proof

/-- A `u8` of the spec (R9). -/
abbrev Byte := BitVec 8

/-- A `u16` of the spec (R9): a bus address or a PC value. -/
abbrev Word := BitVec 16

end Sys2Proof
end

