-- ==== Sys2Proof/Machine/Bits.lean ====
section
/-! DEFINITION. The bit-field and byte-order helpers of 00_scope.md R9: `lo`, `hi`, `cat`, `zext_16`, `sext_16`. -/

namespace Sys2Proof

/-- `lo(w) = w[7:0]` (R9). -/
def lo (w : Word) : Byte := w.extractLsb' 0 8

/-- `hi(w) = w[15:8]` (R9). -/
def hi (w : Word) : Byte := w.extractLsb' 8 8

/-- `cat(h, l) = (h << 8) | l` (R9): every 16-bit value is built little-endian, low byte first (20_memory.md R52). -/
def cat (h l : Byte) : Word := h ++ l

/-- `zext_16(b) = b` (R9). -/
def zext16 (b : Byte) : Word := b.setWidth 16

/-- `sext_16(b)`: `b[7] = 1` gives `0xFF00 | b` (R9). -/
def sext16 (b : Byte) : Word := b.signExtend 16

end Sys2Proof
end

