-- ==== Sys2Proof/Syntax.lean ====
section
/-! DEFINITION. The instructions of the block as syntax: the 56 operations and 13 addressing modes of 30_encoding.md R73
and R70, the operand forms, and `Instr`, one constructor per row of spec/opcode_table.json. Operand bytes are carried as
the spec assembles them (R71): an absolute address or base as one `u16`, everything else as the byte. -/

namespace Sys2Proof

/-- The operation identifiers (R73). -/
inductive Op where
  | adc | and | asl | bcc | bcs | beq | bit | bmi | bne | bpl | brk | bvc | bvs | clc
  | cld | cli | clv | cmp | cpx | cpy | dec | dex | dey | eor | inc | inx | iny | jmp
  | jsr | lda | ldx | ldy | lsr | nop | ora | pha | php | pla | plp | rol | ror | rti
  | rts | sbc | sec | sed | sei | sta | stx | sty | tax | tay | tsx | txa | txs | tya
  deriving DecidableEq, Repr

/-- The addressing-mode identifiers (R70). -/
inductive Mode where
  | imp | acc | imm | zp | zpx | zpy | abs | abx | aby | izx | izy | ind | rel
  deriving DecidableEq, Repr

/-- A table entry: the pair (operation identifier, addressing-mode identifier) (R72). -/
structure Entry where
  op : Op
  mode : Mode
  deriving DecidableEq, Repr

/-- The operand forms that deliver an address (41_addressing.md R162 to R170), with their operand bytes. -/
inductive MemOperand where
  | zp (z : Byte)
  | zpx (z : Byte)
  | zpy (z : Byte)
  | abs (a : Word)
  | abx (a : Word)
  | aby (a : Word)
  | izx (p : Byte)
  | izy (p : Byte)
  | ind (a : Word)
  deriving DecidableEq, Repr

/-- Every operand form. `pad` is the byte BRK reads and skips (R70, 43_handbuilt.md R213, entry 15). -/
inductive Operand where
  | imp
  | pad (b : Byte)
  | acc
  | imm (v : Byte)
  | mem (m : MemOperand)
  | rel (off : Byte)
  deriving DecidableEq, Repr

/-- The mode identifier of an address-delivering form. -/
def MemOperand.mode : MemOperand → Mode
  | .zp _ => .zp
  | .zpx _ => .zpx
  | .zpy _ => .zpy
  | .abs _ => .abs
  | .abx _ => .abx
  | .aby _ => .aby
  | .izx _ => .izx
  | .izy _ => .izy
  | .ind _ => .ind

/-- The mode identifier of an operand form. BRK is IMP in the table (R70). -/
def Operand.mode : Operand → Mode
  | .imp => .imp
  | .pad _ => .imp
  | .acc => .acc
  | .imm _ => .imm
  | .mem m => m.mode
  | .rel _ => .rel

/-- The 151 documented instructions (R75), one constructor per row of spec/opcode_table.json. -/
inductive Instr where
  | adcIzx (p : Byte)
  | adcZp (z : Byte)
  | adcImm (v : Byte)
  | adcAbs (a : Word)
  | adcIzy (p : Byte)
  | adcZpx (z : Byte)
  | adcAby (a : Word)
  | adcAbx (a : Word)
  | andIzx (p : Byte)
  | andZp (z : Byte)
  | andImm (v : Byte)
  | andAbs (a : Word)
  | andIzy (p : Byte)
  | andZpx (z : Byte)
  | andAby (a : Word)
  | andAbx (a : Word)
  | aslZp (z : Byte)
  | aslAcc
  | aslAbs (a : Word)
  | aslZpx (z : Byte)
  | aslAbx (a : Word)
  | bcc (off : Byte)
  | bcs (off : Byte)
  | beq (off : Byte)
  | bitZp (z : Byte)
  | bitAbs (a : Word)
  | bmi (off : Byte)
  | bne (off : Byte)
  | bpl (off : Byte)
  | brk (pad : Byte)
  | bvc (off : Byte)
  | bvs (off : Byte)
  | clc
  | cld
  | cli
  | clv
  | cmpIzx (p : Byte)
  | cmpZp (z : Byte)
  | cmpImm (v : Byte)
  | cmpAbs (a : Word)
  | cmpIzy (p : Byte)
  | cmpZpx (z : Byte)
  | cmpAby (a : Word)
  | cmpAbx (a : Word)
  | cpxImm (v : Byte)
  | cpxZp (z : Byte)
  | cpxAbs (a : Word)
  | cpyImm (v : Byte)
  | cpyZp (z : Byte)
  | cpyAbs (a : Word)
  | decZp (z : Byte)
  | decAbs (a : Word)
  | decZpx (z : Byte)
  | decAbx (a : Word)
  | dex
  | dey
  | eorIzx (p : Byte)
  | eorZp (z : Byte)
  | eorImm (v : Byte)
  | eorAbs (a : Word)
  | eorIzy (p : Byte)
  | eorZpx (z : Byte)
  | eorAby (a : Word)
  | eorAbx (a : Word)
  | incZp (z : Byte)
  | incAbs (a : Word)
  | incZpx (z : Byte)
  | incAbx (a : Word)
  | inx
  | iny
  | jmpAbs (a : Word)
  | jmpInd (a : Word)
  | jsr (a : Word)
  | ldaIzx (p : Byte)
  | ldaZp (z : Byte)
  | ldaImm (v : Byte)
  | ldaAbs (a : Word)
  | ldaIzy (p : Byte)
  | ldaZpx (z : Byte)
  | ldaAby (a : Word)
  | ldaAbx (a : Word)
  | ldxImm (v : Byte)
  | ldxZp (z : Byte)
  | ldxAbs (a : Word)
  | ldxZpy (z : Byte)
  | ldxAby (a : Word)
  | ldyImm (v : Byte)
  | ldyZp (z : Byte)
  | ldyAbs (a : Word)
  | ldyZpx (z : Byte)
  | ldyAbx (a : Word)
  | lsrZp (z : Byte)
  | lsrAcc
  | lsrAbs (a : Word)
  | lsrZpx (z : Byte)
  | lsrAbx (a : Word)
  | nop
  | oraIzx (p : Byte)
  | oraZp (z : Byte)
  | oraImm (v : Byte)
  | oraAbs (a : Word)
  | oraIzy (p : Byte)
  | oraZpx (z : Byte)
  | oraAby (a : Word)
  | oraAbx (a : Word)
  | pha
  | php
  | pla
  | plp
  | rolZp (z : Byte)
  | rolAcc
  | rolAbs (a : Word)
  | rolZpx (z : Byte)
  | rolAbx (a : Word)
  | rorZp (z : Byte)
  | rorAcc
  | rorAbs (a : Word)
  | rorZpx (z : Byte)
  | rorAbx (a : Word)
  | rti
  | rts
  | sbcIzx (p : Byte)
  | sbcZp (z : Byte)
  | sbcImm (v : Byte)
  | sbcAbs (a : Word)
  | sbcIzy (p : Byte)
  | sbcZpx (z : Byte)
  | sbcAby (a : Word)
  | sbcAbx (a : Word)
  | sec
  | sed
  | sei
  | staIzx (p : Byte)
  | staZp (z : Byte)
  | staAbs (a : Word)
  | staIzy (p : Byte)
  | staZpx (z : Byte)
  | staAby (a : Word)
  | staAbx (a : Word)
  | stxZp (z : Byte)
  | stxAbs (a : Word)
  | stxZpy (z : Byte)
  | styZp (z : Byte)
  | styAbs (a : Word)
  | styZpx (z : Byte)
  | tax
  | tay
  | tsx
  | txa
  | txs
  | tya
  deriving DecidableEq, Repr

/-- The operation (mnemonic) of an instruction. -/
def Instr.op : Instr → Op
  | .adcIzx _ | .adcZp _ | .adcImm _ | .adcAbs _ | .adcIzy _ | .adcZpx _ | .adcAby _ | .adcAbx _ => .adc
  | .andIzx _ | .andZp _ | .andImm _ | .andAbs _ | .andIzy _ | .andZpx _ | .andAby _ | .andAbx _ => .and
  | .aslZp _ | .aslAcc | .aslAbs _ | .aslZpx _ | .aslAbx _ => .asl
  | .bcc _ => .bcc
  | .bcs _ => .bcs
  | .beq _ => .beq
  | .bitZp _ | .bitAbs _ => .bit
  | .bmi _ => .bmi
  | .bne _ => .bne
  | .bpl _ => .bpl
  | .brk _ => .brk
  | .bvc _ => .bvc
  | .bvs _ => .bvs
  | .clc => .clc
  | .cld => .cld
  | .cli => .cli
  | .clv => .clv
  | .cmpIzx _ | .cmpZp _ | .cmpImm _ | .cmpAbs _ | .cmpIzy _ | .cmpZpx _ | .cmpAby _ | .cmpAbx _ => .cmp
  | .cpxImm _ | .cpxZp _ | .cpxAbs _ => .cpx
  | .cpyImm _ | .cpyZp _ | .cpyAbs _ => .cpy
  | .decZp _ | .decAbs _ | .decZpx _ | .decAbx _ => .dec
  | .dex => .dex
  | .dey => .dey
  | .eorIzx _ | .eorZp _ | .eorImm _ | .eorAbs _ | .eorIzy _ | .eorZpx _ | .eorAby _ | .eorAbx _ => .eor
  | .incZp _ | .incAbs _ | .incZpx _ | .incAbx _ => .inc
  | .inx => .inx
  | .iny => .iny
  | .jmpAbs _ | .jmpInd _ => .jmp
  | .jsr _ => .jsr
  | .ldaIzx _ | .ldaZp _ | .ldaImm _ | .ldaAbs _ | .ldaIzy _ | .ldaZpx _ | .ldaAby _ | .ldaAbx _ => .lda
  | .ldxImm _ | .ldxZp _ | .ldxAbs _ | .ldxZpy _ | .ldxAby _ => .ldx
  | .ldyImm _ | .ldyZp _ | .ldyAbs _ | .ldyZpx _ | .ldyAbx _ => .ldy
  | .lsrZp _ | .lsrAcc | .lsrAbs _ | .lsrZpx _ | .lsrAbx _ => .lsr
  | .nop => .nop
  | .oraIzx _ | .oraZp _ | .oraImm _ | .oraAbs _ | .oraIzy _ | .oraZpx _ | .oraAby _ | .oraAbx _ => .ora
  | .pha => .pha
  | .php => .php
  | .pla => .pla
  | .plp => .plp
  | .rolZp _ | .rolAcc | .rolAbs _ | .rolZpx _ | .rolAbx _ => .rol
  | .rorZp _ | .rorAcc | .rorAbs _ | .rorZpx _ | .rorAbx _ => .ror
  | .rti => .rti
  | .rts => .rts
  | .sbcIzx _ | .sbcZp _ | .sbcImm _ | .sbcAbs _ | .sbcIzy _ | .sbcZpx _ | .sbcAby _ | .sbcAbx _ => .sbc
  | .sec => .sec
  | .sed => .sed
  | .sei => .sei
  | .staIzx _ | .staZp _ | .staAbs _ | .staIzy _ | .staZpx _ | .staAby _ | .staAbx _ => .sta
  | .stxZp _ | .stxAbs _ | .stxZpy _ => .stx
  | .styZp _ | .styAbs _ | .styZpx _ => .sty
  | .tax => .tax
  | .tay => .tay
  | .tsx => .tsx
  | .txa => .txa
  | .txs => .txs
  | .tya => .tya

/-- The operand form of an instruction, with its operand bytes. JSR's operand is a 2-byte absolute address (R75). -/
def Instr.operand : Instr → Operand
  | .adcIzx p => .mem (.izx p)
  | .adcZp z => .mem (.zp z)
  | .adcImm v => .imm v
  | .adcAbs a => .mem (.abs a)
  | .adcIzy p => .mem (.izy p)
  | .adcZpx z => .mem (.zpx z)
  | .adcAby a => .mem (.aby a)
  | .adcAbx a => .mem (.abx a)
  | .andIzx p => .mem (.izx p)
  | .andZp z => .mem (.zp z)
  | .andImm v => .imm v
  | .andAbs a => .mem (.abs a)
  | .andIzy p => .mem (.izy p)
  | .andZpx z => .mem (.zpx z)
  | .andAby a => .mem (.aby a)
  | .andAbx a => .mem (.abx a)
  | .aslZp z => .mem (.zp z)
  | .aslAcc => .acc
  | .aslAbs a => .mem (.abs a)
  | .aslZpx z => .mem (.zpx z)
  | .aslAbx a => .mem (.abx a)
  | .bcc off => .rel off
  | .bcs off => .rel off
  | .beq off => .rel off
  | .bitZp z => .mem (.zp z)
  | .bitAbs a => .mem (.abs a)
  | .bmi off => .rel off
  | .bne off => .rel off
  | .bpl off => .rel off
  | .brk pad => .pad pad
  | .bvc off => .rel off
  | .bvs off => .rel off
  | .clc => .imp
  | .cld => .imp
  | .cli => .imp
  | .clv => .imp
  | .cmpIzx p => .mem (.izx p)
  | .cmpZp z => .mem (.zp z)
  | .cmpImm v => .imm v
  | .cmpAbs a => .mem (.abs a)
  | .cmpIzy p => .mem (.izy p)
  | .cmpZpx z => .mem (.zpx z)
  | .cmpAby a => .mem (.aby a)
  | .cmpAbx a => .mem (.abx a)
  | .cpxImm v => .imm v
  | .cpxZp z => .mem (.zp z)
  | .cpxAbs a => .mem (.abs a)
  | .cpyImm v => .imm v
  | .cpyZp z => .mem (.zp z)
  | .cpyAbs a => .mem (.abs a)
  | .decZp z => .mem (.zp z)
  | .decAbs a => .mem (.abs a)
  | .decZpx z => .mem (.zpx z)
  | .decAbx a => .mem (.abx a)
  | .dex => .imp
  | .dey => .imp
  | .eorIzx p => .mem (.izx p)
  | .eorZp z => .mem (.zp z)
  | .eorImm v => .imm v
  | .eorAbs a => .mem (.abs a)
  | .eorIzy p => .mem (.izy p)
  | .eorZpx z => .mem (.zpx z)
  | .eorAby a => .mem (.aby a)
  | .eorAbx a => .mem (.abx a)
  | .incZp z => .mem (.zp z)
  | .incAbs a => .mem (.abs a)
  | .incZpx z => .mem (.zpx z)
  | .incAbx a => .mem (.abx a)
  | .inx => .imp
  | .iny => .imp
  | .jmpAbs a => .mem (.abs a)
  | .jmpInd a => .mem (.ind a)
  | .jsr a => .mem (.abs a)
  | .ldaIzx p => .mem (.izx p)
  | .ldaZp z => .mem (.zp z)
  | .ldaImm v => .imm v
  | .ldaAbs a => .mem (.abs a)
  | .ldaIzy p => .mem (.izy p)
  | .ldaZpx z => .mem (.zpx z)
  | .ldaAby a => .mem (.aby a)
  | .ldaAbx a => .mem (.abx a)
  | .ldxImm v => .imm v
  | .ldxZp z => .mem (.zp z)
  | .ldxAbs a => .mem (.abs a)
  | .ldxZpy z => .mem (.zpy z)
  | .ldxAby a => .mem (.aby a)
  | .ldyImm v => .imm v
  | .ldyZp z => .mem (.zp z)
  | .ldyAbs a => .mem (.abs a)
  | .ldyZpx z => .mem (.zpx z)
  | .ldyAbx a => .mem (.abx a)
  | .lsrZp z => .mem (.zp z)
  | .lsrAcc => .acc
  | .lsrAbs a => .mem (.abs a)
  | .lsrZpx z => .mem (.zpx z)
  | .lsrAbx a => .mem (.abx a)
  | .nop => .imp
  | .oraIzx p => .mem (.izx p)
  | .oraZp z => .mem (.zp z)
  | .oraImm v => .imm v
  | .oraAbs a => .mem (.abs a)
  | .oraIzy p => .mem (.izy p)
  | .oraZpx z => .mem (.zpx z)
  | .oraAby a => .mem (.aby a)
  | .oraAbx a => .mem (.abx a)
  | .pha => .imp
  | .php => .imp
  | .pla => .imp
  | .plp => .imp
  | .rolZp z => .mem (.zp z)
  | .rolAcc => .acc
  | .rolAbs a => .mem (.abs a)
  | .rolZpx z => .mem (.zpx z)
  | .rolAbx a => .mem (.abx a)
  | .rorZp z => .mem (.zp z)
  | .rorAcc => .acc
  | .rorAbs a => .mem (.abs a)
  | .rorZpx z => .mem (.zpx z)
  | .rorAbx a => .mem (.abx a)
  | .rti => .imp
  | .rts => .imp
  | .sbcIzx p => .mem (.izx p)
  | .sbcZp z => .mem (.zp z)
  | .sbcImm v => .imm v
  | .sbcAbs a => .mem (.abs a)
  | .sbcIzy p => .mem (.izy p)
  | .sbcZpx z => .mem (.zpx z)
  | .sbcAby a => .mem (.aby a)
  | .sbcAbx a => .mem (.abx a)
  | .sec => .imp
  | .sed => .imp
  | .sei => .imp
  | .staIzx p => .mem (.izx p)
  | .staZp z => .mem (.zp z)
  | .staAbs a => .mem (.abs a)
  | .staIzy p => .mem (.izy p)
  | .staZpx z => .mem (.zpx z)
  | .staAby a => .mem (.aby a)
  | .staAbx a => .mem (.abx a)
  | .stxZp z => .mem (.zp z)
  | .stxAbs a => .mem (.abs a)
  | .stxZpy z => .mem (.zpy z)
  | .styZp z => .mem (.zp z)
  | .styAbs a => .mem (.abs a)
  | .styZpx z => .mem (.zpx z)
  | .tax => .imp
  | .tay => .imp
  | .tsx => .imp
  | .txa => .imp
  | .txs => .imp
  | .tya => .imp

/-- The table entry of an instruction. -/
def Instr.entry (i : Instr) : Entry := ⟨i.op, i.operand.mode⟩

end Sys2Proof
end

