-- ==== Sys2Proof/WellFormed.lean ====
section
/-! DEFINITION. Which terms of the syntax are instructions of the block. The list of modes per operation is written from
the Encoding lines of 40_operations.md R102 to R140 and 43_handbuilt.md R210 to R228, apart from the opcode table that the
decoder uses. Every `Instr` is well formed (Laws/PerInstr.lean); an operation with an operand form it does not have, or a
branch source out of range, is not. -/

namespace Sys2Proof

/-- The modes an operation has an opcode for (the Encoding line of its rule). -/
def Op.modes : Op → List Mode
  | .lda | .and | .ora | .eor | .adc | .sbc | .cmp => [.imm, .zp, .zpx, .abs, .abx, .aby, .izx, .izy]
  | .ldx => [.imm, .zp, .zpy, .abs, .aby]
  | .ldy => [.imm, .zp, .zpx, .abs, .abx]
  | .sta => [.zp, .zpx, .abs, .abx, .aby, .izx, .izy]
  | .stx => [.zp, .zpy, .abs]
  | .sty => [.zp, .zpx, .abs]
  | .cpx | .cpy => [.imm, .zp, .abs]
  | .bit => [.zp, .abs]
  | .asl | .lsr | .rol | .ror => [.acc, .zp, .zpx, .abs, .abx]
  | .inc | .dec => [.zp, .zpx, .abs, .abx]
  | .inx | .iny | .dex | .dey => [.imp]
  | .tax | .tay | .txa | .tya | .tsx | .txs => [.imp]
  | .clc | .sec | .cli | .sei | .clv | .cld | .sed | .nop => [.imp]
  | .jsr => [.abs]
  | .rts | .rti | .brk | .pha | .php | .pla | .plp => [.imp]
  | .jmp => [.abs, .ind]
  | .bpl | .bmi | .bvc | .bvs | .bcc | .bcs | .bne | .beq => [.rel]

/-- The pair is an entry of the opcode map (R75). -/
def Entry.wellFormed (e : Entry) : Bool := decide (e.mode ∈ e.op.modes)

/-- BRK, and only BRK, has the padding byte as its operand form (R70, 43_handbuilt.md R213). -/
def Operand.padFits (op : Op) : Operand → Bool
  | .pad _ => op == .brk
  | .imp => op != .brk
  | _ => true

/-- The operation has this operand form. -/
def Operand.wellFormedFor (op : Op) (o : Operand) : Bool :=
  Entry.wellFormed ⟨op, o.mode⟩ && o.padFits op

/-- The instruction's operation has the instruction's operand form. -/
def Instr.wellFormed (i : Instr) : Bool := i.operand.wellFormedFor i.op

/-- A branch at address `a` to the target `t` can be encoded: `-128 <= t - (a + 2) <= 127` (30_encoding.md R79). The
difference is taken exactly, so a target that is near only after wrapping mod 65536 is refused (DESIGN CHOICE, entry 18:
00_scope.md R9 makes `-` exact on u8 values and does not speak of u16 values). -/
def branchInRange (a t : Word) : Bool :=
  let d : Int := (t.toNat : Int) - ((a.toNat : Int) + 2)
  decide (-128 ≤ d ∧ d ≤ 127)

end Sys2Proof
end

