-- ==== Sys2Proof/Decode.lean ====
section
/-! DEFINITION. The Instruction Table (30_encoding.md R72, R75), the decoder of a byte stream (R70, R71, R78), and after it
the encoder. The table gives (operation, mode) and the base cycle count per opcode; the encoder's opcode bytes are written
a second time, per instruction, from the Encoding lines of the operation rules, so that the round trip compares the two. -/

namespace Sys2Proof

/-- One row of the Instruction Table: the opcode byte, its entry, and its base cycle count (42_compiler.md R195). -/
structure Row where
  opcode : Byte
  op : Op
  mode : Mode
  cycles : Nat
  deriving DecidableEq, Repr

/-- Row 0x of the opcode map (R75). -/
def tableRow0 : List Row :=
  [⟨0x00, .brk, .imp, 7⟩, ⟨0x01, .ora, .izx, 6⟩, ⟨0x05, .ora, .zp, 3⟩, ⟨0x06, .asl, .zp, 5⟩,
   ⟨0x08, .php, .imp, 3⟩, ⟨0x09, .ora, .imm, 2⟩, ⟨0x0A, .asl, .acc, 2⟩, ⟨0x0D, .ora, .abs, 4⟩,
   ⟨0x0E, .asl, .abs, 6⟩]

/-- Row 1x of the opcode map (R75). -/
def tableRow1 : List Row :=
  [⟨0x10, .bpl, .rel, 2⟩, ⟨0x11, .ora, .izy, 5⟩, ⟨0x15, .ora, .zpx, 4⟩, ⟨0x16, .asl, .zpx, 6⟩,
   ⟨0x18, .clc, .imp, 2⟩, ⟨0x19, .ora, .aby, 4⟩, ⟨0x1D, .ora, .abx, 4⟩, ⟨0x1E, .asl, .abx, 7⟩]

/-- Row 2x of the opcode map (R75). -/
def tableRow2 : List Row :=
  [⟨0x20, .jsr, .abs, 6⟩, ⟨0x21, .and, .izx, 6⟩, ⟨0x24, .bit, .zp, 3⟩, ⟨0x25, .and, .zp, 3⟩,
   ⟨0x26, .rol, .zp, 5⟩, ⟨0x28, .plp, .imp, 4⟩, ⟨0x29, .and, .imm, 2⟩, ⟨0x2A, .rol, .acc, 2⟩,
   ⟨0x2C, .bit, .abs, 4⟩, ⟨0x2D, .and, .abs, 4⟩, ⟨0x2E, .rol, .abs, 6⟩]

/-- Row 3x of the opcode map (R75). -/
def tableRow3 : List Row :=
  [⟨0x30, .bmi, .rel, 2⟩, ⟨0x31, .and, .izy, 5⟩, ⟨0x35, .and, .zpx, 4⟩, ⟨0x36, .rol, .zpx, 6⟩,
   ⟨0x38, .sec, .imp, 2⟩, ⟨0x39, .and, .aby, 4⟩, ⟨0x3D, .and, .abx, 4⟩, ⟨0x3E, .rol, .abx, 7⟩]

/-- Row 4x of the opcode map (R75). -/
def tableRow4 : List Row :=
  [⟨0x40, .rti, .imp, 6⟩, ⟨0x41, .eor, .izx, 6⟩, ⟨0x45, .eor, .zp, 3⟩, ⟨0x46, .lsr, .zp, 5⟩,
   ⟨0x48, .pha, .imp, 3⟩, ⟨0x49, .eor, .imm, 2⟩, ⟨0x4A, .lsr, .acc, 2⟩, ⟨0x4C, .jmp, .abs, 3⟩,
   ⟨0x4D, .eor, .abs, 4⟩, ⟨0x4E, .lsr, .abs, 6⟩]

/-- Row 5x of the opcode map (R75). -/
def tableRow5 : List Row :=
  [⟨0x50, .bvc, .rel, 2⟩, ⟨0x51, .eor, .izy, 5⟩, ⟨0x55, .eor, .zpx, 4⟩, ⟨0x56, .lsr, .zpx, 6⟩,
   ⟨0x58, .cli, .imp, 2⟩, ⟨0x59, .eor, .aby, 4⟩, ⟨0x5D, .eor, .abx, 4⟩, ⟨0x5E, .lsr, .abx, 7⟩]

/-- Row 6x of the opcode map (R75). -/
def tableRow6 : List Row :=
  [⟨0x60, .rts, .imp, 6⟩, ⟨0x61, .adc, .izx, 6⟩, ⟨0x65, .adc, .zp, 3⟩, ⟨0x66, .ror, .zp, 5⟩,
   ⟨0x68, .pla, .imp, 4⟩, ⟨0x69, .adc, .imm, 2⟩, ⟨0x6A, .ror, .acc, 2⟩, ⟨0x6C, .jmp, .ind, 5⟩,
   ⟨0x6D, .adc, .abs, 4⟩, ⟨0x6E, .ror, .abs, 6⟩]

/-- Row 7x of the opcode map (R75). -/
def tableRow7 : List Row :=
  [⟨0x70, .bvs, .rel, 2⟩, ⟨0x71, .adc, .izy, 5⟩, ⟨0x75, .adc, .zpx, 4⟩, ⟨0x76, .ror, .zpx, 6⟩,
   ⟨0x78, .sei, .imp, 2⟩, ⟨0x79, .adc, .aby, 4⟩, ⟨0x7D, .adc, .abx, 4⟩, ⟨0x7E, .ror, .abx, 7⟩]

/-- Row 8x of the opcode map (R75). -/
def tableRow8 : List Row :=
  [⟨0x81, .sta, .izx, 6⟩, ⟨0x84, .sty, .zp, 3⟩, ⟨0x85, .sta, .zp, 3⟩, ⟨0x86, .stx, .zp, 3⟩,
   ⟨0x88, .dey, .imp, 2⟩, ⟨0x8A, .txa, .imp, 2⟩, ⟨0x8C, .sty, .abs, 4⟩, ⟨0x8D, .sta, .abs, 4⟩,
   ⟨0x8E, .stx, .abs, 4⟩]

/-- Row 9x of the opcode map (R75). -/
def tableRow9 : List Row :=
  [⟨0x90, .bcc, .rel, 2⟩, ⟨0x91, .sta, .izy, 6⟩, ⟨0x94, .sty, .zpx, 4⟩, ⟨0x95, .sta, .zpx, 4⟩,
   ⟨0x96, .stx, .zpy, 4⟩, ⟨0x98, .tya, .imp, 2⟩, ⟨0x99, .sta, .aby, 5⟩, ⟨0x9A, .txs, .imp, 2⟩,
   ⟨0x9D, .sta, .abx, 5⟩]

/-- Row Ax of the opcode map (R75). -/
def tableRowA : List Row :=
  [⟨0xA0, .ldy, .imm, 2⟩, ⟨0xA1, .lda, .izx, 6⟩, ⟨0xA2, .ldx, .imm, 2⟩, ⟨0xA4, .ldy, .zp, 3⟩,
   ⟨0xA5, .lda, .zp, 3⟩, ⟨0xA6, .ldx, .zp, 3⟩, ⟨0xA8, .tay, .imp, 2⟩, ⟨0xA9, .lda, .imm, 2⟩,
   ⟨0xAA, .tax, .imp, 2⟩, ⟨0xAC, .ldy, .abs, 4⟩, ⟨0xAD, .lda, .abs, 4⟩, ⟨0xAE, .ldx, .abs, 4⟩]

/-- Row Bx of the opcode map (R75). -/
def tableRowB : List Row :=
  [⟨0xB0, .bcs, .rel, 2⟩, ⟨0xB1, .lda, .izy, 5⟩, ⟨0xB4, .ldy, .zpx, 4⟩, ⟨0xB5, .lda, .zpx, 4⟩,
   ⟨0xB6, .ldx, .zpy, 4⟩, ⟨0xB8, .clv, .imp, 2⟩, ⟨0xB9, .lda, .aby, 4⟩, ⟨0xBA, .tsx, .imp, 2⟩,
   ⟨0xBC, .ldy, .abx, 4⟩, ⟨0xBD, .lda, .abx, 4⟩, ⟨0xBE, .ldx, .aby, 4⟩]

/-- Row Cx of the opcode map (R75). -/
def tableRowC : List Row :=
  [⟨0xC0, .cpy, .imm, 2⟩, ⟨0xC1, .cmp, .izx, 6⟩, ⟨0xC4, .cpy, .zp, 3⟩, ⟨0xC5, .cmp, .zp, 3⟩,
   ⟨0xC6, .dec, .zp, 5⟩, ⟨0xC8, .iny, .imp, 2⟩, ⟨0xC9, .cmp, .imm, 2⟩, ⟨0xCA, .dex, .imp, 2⟩,
   ⟨0xCC, .cpy, .abs, 4⟩, ⟨0xCD, .cmp, .abs, 4⟩, ⟨0xCE, .dec, .abs, 6⟩]

/-- Row Dx of the opcode map (R75). -/
def tableRowD : List Row :=
  [⟨0xD0, .bne, .rel, 2⟩, ⟨0xD1, .cmp, .izy, 5⟩, ⟨0xD5, .cmp, .zpx, 4⟩, ⟨0xD6, .dec, .zpx, 6⟩,
   ⟨0xD8, .cld, .imp, 2⟩, ⟨0xD9, .cmp, .aby, 4⟩, ⟨0xDD, .cmp, .abx, 4⟩, ⟨0xDE, .dec, .abx, 7⟩]

/-- Row Ex of the opcode map (R75). -/
def tableRowE : List Row :=
  [⟨0xE0, .cpx, .imm, 2⟩, ⟨0xE1, .sbc, .izx, 6⟩, ⟨0xE4, .cpx, .zp, 3⟩, ⟨0xE5, .sbc, .zp, 3⟩,
   ⟨0xE6, .inc, .zp, 5⟩, ⟨0xE8, .inx, .imp, 2⟩, ⟨0xE9, .sbc, .imm, 2⟩, ⟨0xEA, .nop, .imp, 2⟩,
   ⟨0xEC, .cpx, .abs, 4⟩, ⟨0xED, .sbc, .abs, 4⟩, ⟨0xEE, .inc, .abs, 6⟩]

/-- Row Fx of the opcode map (R75). -/
def tableRowF : List Row :=
  [⟨0xF0, .beq, .rel, 2⟩, ⟨0xF1, .sbc, .izy, 5⟩, ⟨0xF5, .sbc, .zpx, 4⟩, ⟨0xF6, .inc, .zpx, 6⟩,
   ⟨0xF8, .sed, .imp, 2⟩, ⟨0xF9, .sbc, .aby, 4⟩, ⟨0xFD, .sbc, .abx, 4⟩, ⟨0xFE, .inc, .abx, 7⟩]

/-- The Instruction Table: 151 entries; a byte that no row has is illegal (R76). -/
def instructionTable : List Row :=
  tableRow0 ++ tableRow1 ++ tableRow2 ++ tableRow3 ++ tableRow4 ++ tableRow5 ++ tableRow6 ++ tableRow7 ++
  tableRow8 ++ tableRow9 ++ tableRowA ++ tableRowB ++ tableRowC ++ tableRowD ++ tableRowE ++ tableRowF

/-- The table row of an opcode byte, if it has one (R72). -/
def rowOf (op : Byte) : Option Row := instructionTable.find? (fun row => row.opcode == op)

/-- The table entry of an opcode byte, if it has one (R72, R77). -/
def entryOf (op : Byte) : Option Entry := (rowOf op).map (fun row => ⟨row.op, row.mode⟩)

/-- Operand bytes of a mode (R70). -/
def Mode.operandBytes : Mode → Nat
  | .imp | .acc => 0
  | .imm | .zp | .zpx | .zpy | .izx | .izy | .rel => 1
  | .abs | .abx | .aby | .ind => 2

/-- Length of an instruction in bytes, opcode included: that of its mode, and 2 for BRK (R70, R78). -/
def Entry.length (e : Entry) : Nat := if e.op = .brk then 2 else 1 + e.mode.operandBytes

/-- Why the decoder refuses a byte stream. -/
inductive DecodeError where
  /-- The first byte is one of the 105 opcodes with no entry (R76). -/
  | illegalOpcode (op : Byte)
  /-- The stream is empty or ends before the instruction does; the spec does not say what is reported then (DESIGN CHOICE,
  entry 20). -/
  | truncated
  deriving DecidableEq, Repr

/-- What the decoder answers: an instruction with the bytes after it, or a named refusal. -/
inductive DecodeResult where
  | ok (i : Instr) (rest : List Byte)
  | error (e : DecodeError)
  deriving DecidableEq, Repr

/-- Operand assembly (R71): the operand form of an entry from the bytes after the opcode, low byte first. -/
def takeOperand (e : Entry) (bytes : List Byte) : Option (Operand × List Byte) :=
  match e.mode, bytes with
  | .imp, bs =>
    match e.op, bs with
    | .brk, b :: rest => some (.pad b, rest)
    | .brk, [] => none
    | _, bs => some (.imp, bs)
  | .acc, bs => some (.acc, bs)
  | .imm, b1 :: rest => some (.imm b1, rest)
  | .zp, b1 :: rest => some (.mem (.zp b1), rest)
  | .zpx, b1 :: rest => some (.mem (.zpx b1), rest)
  | .zpy, b1 :: rest => some (.mem (.zpy b1), rest)
  | .izx, b1 :: rest => some (.mem (.izx b1), rest)
  | .izy, b1 :: rest => some (.mem (.izy b1), rest)
  | .rel, b1 :: rest => some (.rel b1, rest)
  | .abs, b1 :: b2 :: rest => some (.mem (.abs (cat b2 b1)), rest)
  | .abx, b1 :: b2 :: rest => some (.mem (.abx (cat b2 b1)), rest)
  | .aby, b1 :: b2 :: rest => some (.mem (.aby (cat b2 b1)), rest)
  | .ind, b1 :: b2 :: rest => some (.mem (.ind (cat b2 b1)), rest)
  | _, _ => none

/-- The instruction of an operation with an operand form, if the operation has that form (R75). -/
def assemble : Op → Operand → Option Instr
  | .adc, .mem (.izx p) => some (.adcIzx p)
  | .adc, .mem (.zp z) => some (.adcZp z)
  | .adc, .imm v => some (.adcImm v)
  | .adc, .mem (.abs a) => some (.adcAbs a)
  | .adc, .mem (.izy p) => some (.adcIzy p)
  | .adc, .mem (.zpx z) => some (.adcZpx z)
  | .adc, .mem (.aby a) => some (.adcAby a)
  | .adc, .mem (.abx a) => some (.adcAbx a)
  | .and, .mem (.izx p) => some (.andIzx p)
  | .and, .mem (.zp z) => some (.andZp z)
  | .and, .imm v => some (.andImm v)
  | .and, .mem (.abs a) => some (.andAbs a)
  | .and, .mem (.izy p) => some (.andIzy p)
  | .and, .mem (.zpx z) => some (.andZpx z)
  | .and, .mem (.aby a) => some (.andAby a)
  | .and, .mem (.abx a) => some (.andAbx a)
  | .asl, .mem (.zp z) => some (.aslZp z)
  | .asl, .acc => some .aslAcc
  | .asl, .mem (.abs a) => some (.aslAbs a)
  | .asl, .mem (.zpx z) => some (.aslZpx z)
  | .asl, .mem (.abx a) => some (.aslAbx a)
  | .bcc, .rel off => some (.bcc off)
  | .bcs, .rel off => some (.bcs off)
  | .beq, .rel off => some (.beq off)
  | .bit, .mem (.zp z) => some (.bitZp z)
  | .bit, .mem (.abs a) => some (.bitAbs a)
  | .bmi, .rel off => some (.bmi off)
  | .bne, .rel off => some (.bne off)
  | .bpl, .rel off => some (.bpl off)
  | .brk, .pad pad => some (.brk pad)
  | .bvc, .rel off => some (.bvc off)
  | .bvs, .rel off => some (.bvs off)
  | .clc, .imp => some .clc
  | .cld, .imp => some .cld
  | .cli, .imp => some .cli
  | .clv, .imp => some .clv
  | .cmp, .mem (.izx p) => some (.cmpIzx p)
  | .cmp, .mem (.zp z) => some (.cmpZp z)
  | .cmp, .imm v => some (.cmpImm v)
  | .cmp, .mem (.abs a) => some (.cmpAbs a)
  | .cmp, .mem (.izy p) => some (.cmpIzy p)
  | .cmp, .mem (.zpx z) => some (.cmpZpx z)
  | .cmp, .mem (.aby a) => some (.cmpAby a)
  | .cmp, .mem (.abx a) => some (.cmpAbx a)
  | .cpx, .imm v => some (.cpxImm v)
  | .cpx, .mem (.zp z) => some (.cpxZp z)
  | .cpx, .mem (.abs a) => some (.cpxAbs a)
  | .cpy, .imm v => some (.cpyImm v)
  | .cpy, .mem (.zp z) => some (.cpyZp z)
  | .cpy, .mem (.abs a) => some (.cpyAbs a)
  | .dec, .mem (.zp z) => some (.decZp z)
  | .dec, .mem (.abs a) => some (.decAbs a)
  | .dec, .mem (.zpx z) => some (.decZpx z)
  | .dec, .mem (.abx a) => some (.decAbx a)
  | .dex, .imp => some .dex
  | .dey, .imp => some .dey
  | .eor, .mem (.izx p) => some (.eorIzx p)
  | .eor, .mem (.zp z) => some (.eorZp z)
  | .eor, .imm v => some (.eorImm v)
  | .eor, .mem (.abs a) => some (.eorAbs a)
  | .eor, .mem (.izy p) => some (.eorIzy p)
  | .eor, .mem (.zpx z) => some (.eorZpx z)
  | .eor, .mem (.aby a) => some (.eorAby a)
  | .eor, .mem (.abx a) => some (.eorAbx a)
  | .inc, .mem (.zp z) => some (.incZp z)
  | .inc, .mem (.abs a) => some (.incAbs a)
  | .inc, .mem (.zpx z) => some (.incZpx z)
  | .inc, .mem (.abx a) => some (.incAbx a)
  | .inx, .imp => some .inx
  | .iny, .imp => some .iny
  | .jmp, .mem (.abs a) => some (.jmpAbs a)
  | .jmp, .mem (.ind a) => some (.jmpInd a)
  | .jsr, .mem (.abs a) => some (.jsr a)
  | .lda, .mem (.izx p) => some (.ldaIzx p)
  | .lda, .mem (.zp z) => some (.ldaZp z)
  | .lda, .imm v => some (.ldaImm v)
  | .lda, .mem (.abs a) => some (.ldaAbs a)
  | .lda, .mem (.izy p) => some (.ldaIzy p)
  | .lda, .mem (.zpx z) => some (.ldaZpx z)
  | .lda, .mem (.aby a) => some (.ldaAby a)
  | .lda, .mem (.abx a) => some (.ldaAbx a)
  | .ldx, .imm v => some (.ldxImm v)
  | .ldx, .mem (.zp z) => some (.ldxZp z)
  | .ldx, .mem (.abs a) => some (.ldxAbs a)
  | .ldx, .mem (.zpy z) => some (.ldxZpy z)
  | .ldx, .mem (.aby a) => some (.ldxAby a)
  | .ldy, .imm v => some (.ldyImm v)
  | .ldy, .mem (.zp z) => some (.ldyZp z)
  | .ldy, .mem (.abs a) => some (.ldyAbs a)
  | .ldy, .mem (.zpx z) => some (.ldyZpx z)
  | .ldy, .mem (.abx a) => some (.ldyAbx a)
  | .lsr, .mem (.zp z) => some (.lsrZp z)
  | .lsr, .acc => some .lsrAcc
  | .lsr, .mem (.abs a) => some (.lsrAbs a)
  | .lsr, .mem (.zpx z) => some (.lsrZpx z)
  | .lsr, .mem (.abx a) => some (.lsrAbx a)
  | .nop, .imp => some .nop
  | .ora, .mem (.izx p) => some (.oraIzx p)
  | .ora, .mem (.zp z) => some (.oraZp z)
  | .ora, .imm v => some (.oraImm v)
  | .ora, .mem (.abs a) => some (.oraAbs a)
  | .ora, .mem (.izy p) => some (.oraIzy p)
  | .ora, .mem (.zpx z) => some (.oraZpx z)
  | .ora, .mem (.aby a) => some (.oraAby a)
  | .ora, .mem (.abx a) => some (.oraAbx a)
  | .pha, .imp => some .pha
  | .php, .imp => some .php
  | .pla, .imp => some .pla
  | .plp, .imp => some .plp
  | .rol, .mem (.zp z) => some (.rolZp z)
  | .rol, .acc => some .rolAcc
  | .rol, .mem (.abs a) => some (.rolAbs a)
  | .rol, .mem (.zpx z) => some (.rolZpx z)
  | .rol, .mem (.abx a) => some (.rolAbx a)
  | .ror, .mem (.zp z) => some (.rorZp z)
  | .ror, .acc => some .rorAcc
  | .ror, .mem (.abs a) => some (.rorAbs a)
  | .ror, .mem (.zpx z) => some (.rorZpx z)
  | .ror, .mem (.abx a) => some (.rorAbx a)
  | .rti, .imp => some .rti
  | .rts, .imp => some .rts
  | .sbc, .mem (.izx p) => some (.sbcIzx p)
  | .sbc, .mem (.zp z) => some (.sbcZp z)
  | .sbc, .imm v => some (.sbcImm v)
  | .sbc, .mem (.abs a) => some (.sbcAbs a)
  | .sbc, .mem (.izy p) => some (.sbcIzy p)
  | .sbc, .mem (.zpx z) => some (.sbcZpx z)
  | .sbc, .mem (.aby a) => some (.sbcAby a)
  | .sbc, .mem (.abx a) => some (.sbcAbx a)
  | .sec, .imp => some .sec
  | .sed, .imp => some .sed
  | .sei, .imp => some .sei
  | .sta, .mem (.izx p) => some (.staIzx p)
  | .sta, .mem (.zp z) => some (.staZp z)
  | .sta, .mem (.abs a) => some (.staAbs a)
  | .sta, .mem (.izy p) => some (.staIzy p)
  | .sta, .mem (.zpx z) => some (.staZpx z)
  | .sta, .mem (.aby a) => some (.staAby a)
  | .sta, .mem (.abx a) => some (.staAbx a)
  | .stx, .mem (.zp z) => some (.stxZp z)
  | .stx, .mem (.abs a) => some (.stxAbs a)
  | .stx, .mem (.zpy z) => some (.stxZpy z)
  | .sty, .mem (.zp z) => some (.styZp z)
  | .sty, .mem (.abs a) => some (.styAbs a)
  | .sty, .mem (.zpx z) => some (.styZpx z)
  | .tax, .imp => some .tax
  | .tay, .imp => some .tay
  | .tsx, .imp => some .tsx
  | .txa, .imp => some .txa
  | .txs, .imp => some .txs
  | .tya, .imp => some .tya
  | _, _ => none

/-- The decoder, total on any bytes: it answers the instruction at the head of the stream and the bytes after it, or why
there is none (R72, R76, R78). -/
def decode (bytes : List Byte) : DecodeResult :=
  match bytes with
  | [] => .error .truncated
  | op :: rest =>
    match entryOf op with
    | none => .error (.illegalOpcode op)
    | some e =>
      match takeOperand e rest with
      | none => .error .truncated
      | some (o, tail) =>
        match assemble e.op o with
        | some i => .ok i tail
        | none => .error (.illegalOpcode op)

/-- The opcode byte of an instruction (the Encoding line of its rule in 40_operations.md and 43_handbuilt.md). -/
def Instr.opcode : Instr → Byte
  | .adcIzx _ => 0x61
  | .adcZp _ => 0x65
  | .adcImm _ => 0x69
  | .adcAbs _ => 0x6D
  | .adcIzy _ => 0x71
  | .adcZpx _ => 0x75
  | .adcAby _ => 0x79
  | .adcAbx _ => 0x7D
  | .andIzx _ => 0x21
  | .andZp _ => 0x25
  | .andImm _ => 0x29
  | .andAbs _ => 0x2D
  | .andIzy _ => 0x31
  | .andZpx _ => 0x35
  | .andAby _ => 0x39
  | .andAbx _ => 0x3D
  | .aslZp _ => 0x06
  | .aslAcc => 0x0A
  | .aslAbs _ => 0x0E
  | .aslZpx _ => 0x16
  | .aslAbx _ => 0x1E
  | .bcc _ => 0x90
  | .bcs _ => 0xB0
  | .beq _ => 0xF0
  | .bitZp _ => 0x24
  | .bitAbs _ => 0x2C
  | .bmi _ => 0x30
  | .bne _ => 0xD0
  | .bpl _ => 0x10
  | .brk _ => 0x00
  | .bvc _ => 0x50
  | .bvs _ => 0x70
  | .clc => 0x18
  | .cld => 0xD8
  | .cli => 0x58
  | .clv => 0xB8
  | .cmpIzx _ => 0xC1
  | .cmpZp _ => 0xC5
  | .cmpImm _ => 0xC9
  | .cmpAbs _ => 0xCD
  | .cmpIzy _ => 0xD1
  | .cmpZpx _ => 0xD5
  | .cmpAby _ => 0xD9
  | .cmpAbx _ => 0xDD
  | .cpxImm _ => 0xE0
  | .cpxZp _ => 0xE4
  | .cpxAbs _ => 0xEC
  | .cpyImm _ => 0xC0
  | .cpyZp _ => 0xC4
  | .cpyAbs _ => 0xCC
  | .decZp _ => 0xC6
  | .decAbs _ => 0xCE
  | .decZpx _ => 0xD6
  | .decAbx _ => 0xDE
  | .dex => 0xCA
  | .dey => 0x88
  | .eorIzx _ => 0x41
  | .eorZp _ => 0x45
  | .eorImm _ => 0x49
  | .eorAbs _ => 0x4D
  | .eorIzy _ => 0x51
  | .eorZpx _ => 0x55
  | .eorAby _ => 0x59
  | .eorAbx _ => 0x5D
  | .incZp _ => 0xE6
  | .incAbs _ => 0xEE
  | .incZpx _ => 0xF6
  | .incAbx _ => 0xFE
  | .inx => 0xE8
  | .iny => 0xC8
  | .jmpAbs _ => 0x4C
  | .jmpInd _ => 0x6C
  | .jsr _ => 0x20
  | .ldaIzx _ => 0xA1
  | .ldaZp _ => 0xA5
  | .ldaImm _ => 0xA9
  | .ldaAbs _ => 0xAD
  | .ldaIzy _ => 0xB1
  | .ldaZpx _ => 0xB5
  | .ldaAby _ => 0xB9
  | .ldaAbx _ => 0xBD
  | .ldxImm _ => 0xA2
  | .ldxZp _ => 0xA6
  | .ldxAbs _ => 0xAE
  | .ldxZpy _ => 0xB6
  | .ldxAby _ => 0xBE
  | .ldyImm _ => 0xA0
  | .ldyZp _ => 0xA4
  | .ldyAbs _ => 0xAC
  | .ldyZpx _ => 0xB4
  | .ldyAbx _ => 0xBC
  | .lsrZp _ => 0x46
  | .lsrAcc => 0x4A
  | .lsrAbs _ => 0x4E
  | .lsrZpx _ => 0x56
  | .lsrAbx _ => 0x5E
  | .nop => 0xEA
  | .oraIzx _ => 0x01
  | .oraZp _ => 0x05
  | .oraImm _ => 0x09
  | .oraAbs _ => 0x0D
  | .oraIzy _ => 0x11
  | .oraZpx _ => 0x15
  | .oraAby _ => 0x19
  | .oraAbx _ => 0x1D
  | .pha => 0x48
  | .php => 0x08
  | .pla => 0x68
  | .plp => 0x28
  | .rolZp _ => 0x26
  | .rolAcc => 0x2A
  | .rolAbs _ => 0x2E
  | .rolZpx _ => 0x36
  | .rolAbx _ => 0x3E
  | .rorZp _ => 0x66
  | .rorAcc => 0x6A
  | .rorAbs _ => 0x6E
  | .rorZpx _ => 0x76
  | .rorAbx _ => 0x7E
  | .rti => 0x40
  | .rts => 0x60
  | .sbcIzx _ => 0xE1
  | .sbcZp _ => 0xE5
  | .sbcImm _ => 0xE9
  | .sbcAbs _ => 0xED
  | .sbcIzy _ => 0xF1
  | .sbcZpx _ => 0xF5
  | .sbcAby _ => 0xF9
  | .sbcAbx _ => 0xFD
  | .sec => 0x38
  | .sed => 0xF8
  | .sei => 0x78
  | .staIzx _ => 0x81
  | .staZp _ => 0x85
  | .staAbs _ => 0x8D
  | .staIzy _ => 0x91
  | .staZpx _ => 0x95
  | .staAby _ => 0x99
  | .staAbx _ => 0x9D
  | .stxZp _ => 0x86
  | .stxAbs _ => 0x8E
  | .stxZpy _ => 0x96
  | .styZp _ => 0x84
  | .styAbs _ => 0x8C
  | .styZpx _ => 0x94
  | .tax => 0xAA
  | .tay => 0xA8
  | .tsx => 0xBA
  | .txa => 0x8A
  | .txs => 0x9A
  | .tya => 0x98

/-- The operand bytes of an address-delivering form, low byte first (R70, R71). -/
def MemOperand.bytes : MemOperand → List Byte
  | .zp z | .zpx z | .zpy z => [z]
  | .izx p | .izy p => [p]
  | .abs a | .abx a | .aby a | .ind a => [lo a, hi a]

/-- The operand bytes of an operand form (R70, R71). -/
def Operand.bytes : Operand → List Byte
  | .imp | .acc => []
  | .pad b => [b]
  | .imm v => [v]
  | .rel off => [off]
  | .mem m => m.bytes

/-- The encoder: the bytes of a well-formed instruction in address order (R70). -/
def encode (i : Instr) : List Byte := i.opcode :: i.operand.bytes

/-- Length of an instruction in bytes (R70). -/
def Instr.length (i : Instr) : Nat := (encode i).length

/-- Byte `k` of a number whose bits count from the first byte's least significant bit. -/
def tableByte (w k : Nat) : Byte := BitVec.ofNat 8 (w >>> (8 * k))

/-- The three bytes, in address order, of an opcode-table word of `nbits` bits; every bit above `nbits` is 0 and the
longest instruction has three bytes (R70). -/
def tableBytes (nbits w : Nat) : List Byte :=
  let v := w % 2 ^ nbits
  [tableByte v 0, tableByte v 1, tableByte v 2]

/-- The instruction the decoder reads from an opcode-table word, bit 0 being the least significant bit of the first byte. -/
def decodeTableWord (nbits w : Nat) : Option Instr :=
  match decode (tableBytes nbits w) with
  | .ok i _ => some i
  | .error _ => none

/-- Read a byte stream as a listing (R78): each legal instruction with its length's bytes taken, each illegal byte alone.
A stream that ends inside an instruction, a lone final 0x00 (BRK) among them, ends the listing there, and its left-over bytes
are reported as nothing: R78 does not say what is reported (DESIGN CHOICE, unsafe, entry 20). `fuel` bounds the number of items. -/
def listing : Nat → List Byte → List (Instr ⊕ Byte)
  | 0, _ => []
  | fuel + 1, bytes =>
    match decode bytes with
    | .ok i rest => .inl i :: listing fuel rest
    | .error (.illegalOpcode op) => .inr op :: listing fuel bytes.tail
    | .error .truncated => []

end Sys2Proof
end

