-- ==== Sys2Proof/Config.lean ====
section
/-! DEFINITION. What is fixed for one host and open in the spec: the open parameters of 00_scope.md R7
(`decimalAdc`, `decimalSbc`, `busRead`) and the unspecified latches of a new machine (10_state.md R40), each an opaque
constant, so that no proof can know a value of it. The open parameter `initialRegs` is an argument of
`Machine.State.powerUp`. The plain data these constants speak of are declared here too. -/

namespace Sys2Proof

/-- One request of the block on the bus, as 45_arbiter.md R240 and R248 and 20_memory.md R55 record it: its kind (with
the `fetch` output), its address, and for a write its byte. A read's answer is not part of the request. -/
inductive BusAccess where
  /-- A Read request with `fetch = 1`: the opcode fetch of phase Fetch. -/
  | fetch (addr : Word)
  /-- A Read request with `fetch = 0`, dummy reads included. -/
  | read (addr : Word)
  /-- A Write request with its byte. -/
  | write (addr : Word) (value : Byte)
  deriving DecidableEq, Repr

/-- What a decimal-mode addition or subtraction delivers (R7, 92_eei_decisions.md D8): the result and four flags. -/
structure AluResult where
  r : Byte
  n : Bool
  v : Bool
  z : Bool
  c : Bool
  deriving DecidableEq, Repr, Inhabited

/-- The latches a state machine carries between its cycles (10_state.md R39, 92_eei_decisions.md D13). -/
structure Latches where
  adl : Byte
  adh : Byte
  ptr : Byte
  base : Word
  ea : Word
  data : Byte
  res : Byte
  off : Byte
  deriving DecidableEq, Repr, Inhabited

/-- FREE VALUE (entry 5). The result of ADC with P.D = 1, a function of its operands alone: accumulator, operand byte,
carry in (40_operations.md R111, D8). -/
opaque Config.decimalAdc : Byte → Byte → Bool → AluResult

/-- FREE VALUE (entry 5). The result of SBC with P.D = 1 (40_operations.md R112, D8). -/
opaque Config.decimalSbc : Byte → Byte → Bool → AluResult

/-- FREE VALUE (entry 4). The byte the host answers to a read, given the history of all earlier requests (newest first)
and the address (20_memory.md R50, D17). It is used at the addresses of `State.hostRegions` only. -/
opaque Config.busRead : List BusAccess → Word → Byte

/-- FREE VALUE (entry 9). The unspecified latches of a machine built when `n` requests have been made (10_state.md R40,
93_implementation_defined.md I4). -/
opaque Config.freshLatches : Nat → Latches

end Sys2Proof
end

