-- ==== Sys2Proof/Machine/State.lean ====
section
/-! DEFINITION. The state of the block (10_state.md), as plain data: the Register File, the arbiter's phase with the
machine of the current instruction, and the bus side the block's accesses go to (20_memory.md R50, 92_eei_decisions.md
D17). Also the reasons a step can stop, and the state after reset. -/

namespace Sys2Proof.Machine

/-- The Register File: six registers (R20). `p` is the stored byte of P; it is read and written through `readP` and
`writeP`, which force bit 5 (R26). -/
structure RegFile where
  a : Byte
  x : Byte
  y : Byte
  s : Byte
  pc : Word
  p : Byte
  deriving DecidableEq, Repr

/-- A state machine instance as data (R39): the table entry, the cycle index of its next Step (1 for the first Step after
the opcode fetch), the write-like flag (42_compiler.md R192) and the latches. -/
structure StateMachine where
  entry : Entry
  t : Nat
  writeLike : Bool
  latches : Latches
  deriving DecidableEq, Repr

/-- The arbiter's phase register (R37). -/
inductive Phase where
  /-- No instruction is active; the next cycle is an opcode fetch. -/
  | fetch
  /-- The machine `m` is active and has a pending Step. -/
  | exec (m : StateMachine)
  /-- The last fetched opcode compiled to null; no Step is pending. -/
  | halted (op : Byte)
  deriving DecidableEq, Repr

/-- An inclusive range of bus addresses. -/
structure Region where
  first : Nat
  last : Nat
  deriving DecidableEq, Repr

/-- Plain memory (D17): pairs of address and byte, addresses strictly rising, no pair whose byte is what an unlisted
address reads as (`unlistedByte`). `Memory.wf` says so. -/
abbrev Memory := List Host.Cell

/-- The whole state. `hostRegions` is the model's own field (entries 3 and 4): the addresses whose reads the host answers
freely, the others being plain memory. `history` holds every request so far, newest first (R50, R55). -/
structure State where
  regs : RegFile
  phase : Phase
  mem : Memory
  hostRegions : List Region
  history : List BusAccess
  deriving DecidableEq, Repr

/-- Why a step stops with a fault. The spec's one exception, IllegalOpcode, is no fault here: it is taken as a next state
in phase Halted (60_exceptions.md R264). -/
inductive Fault where
  /-- Raised by `advance` (so by `cycle`, and by `step` in phase Exec) in a state whose machine has a cycle index without a
  row in its entry's cycle table, or an entry without a table row. No rule leads to such a state. SAFE (entry 11). -/
  | noSuchCycle
  deriving DecidableEq, Repr

/-- Why the model has no meaning for what is asked. -/
inductive Refusal where
  /-- Raised by `exec` in the arm of an instruction that has no meaning yet. SAFE. -/
  | notModelled (mnemonic : String)
  /-- Raised by `hostWrite` outside phase Fetch, where the spec gives the host no such move (45_arbiter.md R246,
  93_implementation_defined.md I6). SAFE (entry 12). -/
  | hostWriteOutsideFetch
  deriving DecidableEq, Repr

/-- What a step, a cycle or a host move answers. -/
abbrev Result := Host.Outcome State Fault Refusal

/-- The state before the first opcode fetch (R42): phase Fetch, P bit 5 = 1. The registers are the open parameter
`initialRegs`, fixed here at zero (DESIGN CHOICE, entry 2; `powerUp` takes any); the bus is plain memory with nothing
listed (DESIGN CHOICE, entries 1 and 3); no request has been made. -/
def State.reset : State where
  regs := { a := 0, x := 0, y := 0, s := 0, pc := 0, p := 0x20 }
  phase := .fetch
  mem := []
  hostRegions := []
  history := []

end Sys2Proof.Machine
end

