-- ==== Sys2Proof/Machine/Flags.lean ====
section
/-! DEFINITION. The registers' accessors and every flag computation: P with its hard-wired bit 5 (10_state.md R25, R26),
the uniform N and Z rule (40_operations.md R100), the byte P is pushed as and pulled from (R30), binary and decimal
addition and subtraction (R111, R112), comparison (R113). -/

namespace Sys2Proof.Machine

/-- The flags of P (R25). -/
inductive Flag where
  | n | v | u | b | d | i | z | c
  deriving DecidableEq, Repr

/-- The bit of P a flag is (R25). -/
def Flag.bit : Flag → Nat
  | .n => 7
  | .v => 6
  | .u => 5
  | .b => 4
  | .d => 3
  | .i => 2
  | .z => 1
  | .c => 0

/-- `v` with bit `k` set to `b`. -/
def putBit (k : Nat) (b : Bool) (v : Byte) : Byte :=
  if b then v ||| (1#8 <<< k) else v &&& ~~~(1#8 <<< k)

/-- Write A (R21, R27). -/
def RegFile.setA (v : Byte) (r : RegFile) : RegFile := { r with a := v }

/-- Write X (R22, R27). -/
def RegFile.setX (v : Byte) (r : RegFile) : RegFile := { r with x := v }

/-- Write Y (R22, R27). -/
def RegFile.setY (v : Byte) (r : RegFile) : RegFile := { r with y := v }

/-- Write S (R23, R27). -/
def RegFile.setS (v : Byte) (r : RegFile) : RegFile := { r with s := v }

/-- Write PC (R24, R27). -/
def RegFile.setPc (v : Word) (r : RegFile) : RegFile := { r with pc := v }

/-- Advance PC by 1, wrapping mod 65536 (R24). -/
def RegFile.incPc (r : RegFile) : RegFile := r.setPc (r.pc + 1)

/-- Read P: bit 5 is seen as 1 (R26). -/
def RegFile.readP (r : RegFile) : Byte := r.p ||| 0x20

/-- Write P: `v | 0x20` is stored (R26). -/
def RegFile.writeP (v : Byte) (r : RegFile) : RegFile := { r with p := v ||| 0x20 }

/-- Read a flag. -/
def RegFile.flag (f : Flag) (r : RegFile) : Bool := r.readP.getLsbD f.bit

/-- Write a flag; the other bits of P keep their values. -/
def RegFile.setFlag (f : Flag) (b : Bool) (r : RegFile) : RegFile := r.writeP (putBit f.bit b r.readP)

/-- "N, Z from v" (R100): `P.Z <- (v = 0)`, `P.N <- v[7]`. -/
def RegFile.setNZ (v : Byte) (r : RegFile) : RegFile :=
  (r.setFlag .n (v.getLsbD 7)).setFlag .z (v == 0)

/-- The byte PHP and BRK push: `P | 0x30` (R30). -/
def RegFile.pushedP (r : RegFile) : Byte := r.readP ||| 0x30

/-- What PLP and RTI do with the pulled byte `d`: `P <- (d | 0x20) & 0xEF` (R30). -/
def RegFile.pullP (d : Byte) (r : RegFile) : RegFile := r.writeP ((d ||| 0x20) &&& 0xEF)

/-- The stack address of an S value, `cat(0x01, S)`: page 1 (R23). -/
def stackAddress (s : Byte) : Word := cat 0x01 s

/-- Binary addition (R111): the exact sum, its low byte, the carry out of bit 7 and the signed overflow. -/
def binaryAdd (a m : Byte) (c : Bool) : AluResult :=
  let t := a.toNat + m.toNat + c.toNat
  let r := BitVec.ofNat 8 t
  { r := r
    n := r.getLsbD 7
    v := ((a ^^^ r) &&& (m ^^^ r)).getLsbD 7
    z := r == 0
    c := decide (t > 255) }

/-- Binary subtraction (R112): addition of `M ^ 0xFF`, the carry meaning no borrow. -/
def binarySub (a m : Byte) (c : Bool) : AluResult := binaryAdd a (m ^^^ 0xFF) c

/-- What ADC delivers: binary with P.D = 0, the open parameter with P.D = 1 (R111, entry 5). -/
def adcResult (d : Bool) (a m : Byte) (c : Bool) : AluResult :=
  if d then Config.decimalAdc a m c else binaryAdd a m c

/-- What SBC delivers: binary with P.D = 0, the open parameter with P.D = 1 (R112, entry 5). -/
def sbcResult (d : Bool) (a m : Byte) (c : Bool) : AluResult :=
  if d then Config.decimalSbc a m c else binarySub a m c

/-- Write an arithmetic result to A, N, V, Z and C. -/
def RegFile.putResult (q : AluResult) (r : RegFile) : RegFile :=
  ((((r.setA q.r).setFlag .n q.n).setFlag .v q.v).setFlag .z q.z).setFlag .c q.c

/-- Comparison of a register value with the operand (R113 to R115): C is `value >= m`, N and Z from the difference. -/
def RegFile.compare (value m : Byte) (r : RegFile) : RegFile :=
  (r.setFlag .c (decide (m.toNat ≤ value.toNat))).setNZ (value - m)

end Sys2Proof.Machine
end

