-- ==== Sys2Proof/Machine/Alu.lean ====
section
/-! DEFINITION. The operation functions (40_operations.md R101): a `read` function takes the operand byte and updates the
Register File, a `write` function gives the byte to store, an `rmw` function gives the byte to write back and the updated
Register File, an `implied` function updates the Register File. None touches the bus. -/

namespace Sys2Proof.Machine

/-- LDA: `A <- M`; N, Z from A (R102). -/
def opLda (m : Byte) (r : RegFile) : RegFile := (r.setA m).setNZ m

/-- LDX: `X <- M`; N, Z from X (R103). -/
def opLdx (m : Byte) (r : RegFile) : RegFile := (r.setX m).setNZ m

/-- LDY: `Y <- M`; N, Z from Y (R104). -/
def opLdy (m : Byte) (r : RegFile) : RegFile := (r.setY m).setNZ m

/-- STA stores A (R105). -/
def opSta (r : RegFile) : Byte := r.a

/-- STX stores X (R106). -/
def opStx (r : RegFile) : Byte := r.x

/-- STY stores Y (R107). -/
def opSty (r : RegFile) : Byte := r.y

/-- AND: `A <- A & M`; N, Z from A (R108). -/
def opAnd (m : Byte) (r : RegFile) : RegFile := (r.setA (r.a &&& m)).setNZ (r.a &&& m)

/-- ORA: `A <- A | M`; N, Z from A (R109). -/
def opOra (m : Byte) (r : RegFile) : RegFile := (r.setA (r.a ||| m)).setNZ (r.a ||| m)

/-- EOR: `A <- A ^ M`; N, Z from A (R110). -/
def opEor (m : Byte) (r : RegFile) : RegFile := (r.setA (r.a ^^^ m)).setNZ (r.a ^^^ m)

/-- ADC (R111): A, N, V, Z, C from the sum. -/
def opAdc (m : Byte) (r : RegFile) : RegFile := r.putResult (adcResult (r.flag .d) r.a m (r.flag .c))

/-- SBC (R112): A, N, V, Z, C from the difference. -/
def opSbc (m : Byte) (r : RegFile) : RegFile := r.putResult (sbcResult (r.flag .d) r.a m (r.flag .c))

/-- CMP compares A (R113). -/
def opCmp (m : Byte) (r : RegFile) : RegFile := r.compare r.a m

/-- CPX compares X (R114). -/
def opCpx (m : Byte) (r : RegFile) : RegFile := r.compare r.x m

/-- CPY compares Y (R115). -/
def opCpy (m : Byte) (r : RegFile) : RegFile := r.compare r.y m

/-- BIT: `P.Z <- ((A & M) = 0)`, `P.N <- M[7]`, `P.V <- M[6]` (R116). -/
def opBit (m : Byte) (r : RegFile) : RegFile :=
  ((r.setFlag .z (r.a &&& m == 0)).setFlag .n (m.getLsbD 7)).setFlag .v (m.getLsbD 6)

/-- ASL: `r = M << 1`, C is the old bit 7 (R117). -/
def opAsl (m : Byte) (r : RegFile) : Byte × RegFile :=
  let q := m <<< 1
  (q, (r.setFlag .c (m.getLsbD 7)).setNZ q)

/-- LSR: `r = M >> 1`, C is the old bit 0 (R118). -/
def opLsr (m : Byte) (r : RegFile) : Byte × RegFile :=
  let q := m >>> 1
  (q, (r.setFlag .c (m.getLsbD 0)).setNZ q)

/-- ROL: the old carry enters bit 0, C is the old bit 7 (R119). -/
def opRol (m : Byte) (r : RegFile) : Byte × RegFile :=
  let q := (m <<< 1) ||| (if r.flag .c then 0x01 else 0x00)
  (q, (r.setFlag .c (m.getLsbD 7)).setNZ q)

/-- ROR: the old carry enters bit 7, C is the old bit 0 (R120). -/
def opRor (m : Byte) (r : RegFile) : Byte × RegFile :=
  let q := (m >>> 1) ||| (if r.flag .c then 0x80 else 0x00)
  (q, (r.setFlag .c (m.getLsbD 0)).setNZ q)

/-- INC: `r = M + 1`; N, Z from r (R121). -/
def opInc (m : Byte) (r : RegFile) : Byte × RegFile := (m + 1, r.setNZ (m + 1))

/-- DEC: `r = M - 1`; N, Z from r (R122). -/
def opDec (m : Byte) (r : RegFile) : Byte × RegFile := (m - 1, r.setNZ (m - 1))

/-- The ACC form of a shift or rotate takes A as M and writes its result to A (R101). -/
def onAccumulator (f : Byte → RegFile → Byte × RegFile) (r : RegFile) : RegFile :=
  let q := f r.a r
  q.2.setA q.1

/-- INX (R123). -/
def opInx (r : RegFile) : RegFile := (r.setX (r.x + 1)).setNZ (r.x + 1)

/-- INY (R124). -/
def opIny (r : RegFile) : RegFile := (r.setY (r.y + 1)).setNZ (r.y + 1)

/-- DEX (R125). -/
def opDex (r : RegFile) : RegFile := (r.setX (r.x - 1)).setNZ (r.x - 1)

/-- DEY (R126). -/
def opDey (r : RegFile) : RegFile := (r.setY (r.y - 1)).setNZ (r.y - 1)

/-- TAX: `X <- A` (R127). -/
def opTax (r : RegFile) : RegFile := (r.setX r.a).setNZ r.a

/-- TAY: `Y <- A` (R128). -/
def opTay (r : RegFile) : RegFile := (r.setY r.a).setNZ r.a

/-- TXA: `A <- X` (R129). -/
def opTxa (r : RegFile) : RegFile := (r.setA r.x).setNZ r.x

/-- TYA: `A <- Y` (R130). -/
def opTya (r : RegFile) : RegFile := (r.setA r.y).setNZ r.y

/-- TSX: `X <- S` (R131). -/
def opTsx (r : RegFile) : RegFile := (r.setX r.s).setNZ r.s

/-- TXS: `S <- X`, no flag (R132). -/
def opTxs (r : RegFile) : RegFile := r.setS r.x

/-- CLC (R133). -/
def opClc (r : RegFile) : RegFile := r.setFlag .c false

/-- SEC (R134). -/
def opSec (r : RegFile) : RegFile := r.setFlag .c true

/-- CLI (R135). -/
def opCli (r : RegFile) : RegFile := r.setFlag .i false

/-- SEI (R136). -/
def opSei (r : RegFile) : RegFile := r.setFlag .i true

/-- CLV (R137). -/
def opClv (r : RegFile) : RegFile := r.setFlag .v false

/-- CLD (R138). -/
def opCld (r : RegFile) : RegFile := r.setFlag .d false

/-- SED (R139). -/
def opSed (r : RegFile) : RegFile := r.setFlag .d true

/-- NOP changes no register (R140). -/
def opNop (r : RegFile) : RegFile := r

/-- PLA's use of the pulled byte: `A <- d`; N, Z from A (43_handbuilt.md R216). -/
def opPla (d : Byte) (r : RegFile) : RegFile := (r.setA d).setNZ d

/-- PLP's use of the pulled byte (43_handbuilt.md R217). -/
def opPlp (d : Byte) (r : RegFile) : RegFile := r.pullP d

/-- PHA pushes A (43_handbuilt.md R214). -/
def opPha (r : RegFile) : Byte := r.a

/-- PHP pushes `P | 0x30` (43_handbuilt.md R215). -/
def opPhp (r : RegFile) : Byte := r.pushedP

/-- BPL's condition: `P.N = 0` (43_handbuilt.md R221). -/
def condBpl (r : RegFile) : Bool := !r.flag .n

/-- BMI's condition: `P.N = 1` (R222). -/
def condBmi (r : RegFile) : Bool := r.flag .n

/-- BVC's condition: `P.V = 0` (R223). -/
def condBvc (r : RegFile) : Bool := !r.flag .v

/-- BVS's condition: `P.V = 1` (R224). -/
def condBvs (r : RegFile) : Bool := r.flag .v

/-- BCC's condition: `P.C = 0` (R225). -/
def condBcc (r : RegFile) : Bool := !r.flag .c

/-- BCS's condition: `P.C = 1` (R226). -/
def condBcs (r : RegFile) : Bool := r.flag .c

/-- BNE's condition: `P.Z = 0` (R227). -/
def condBne (r : RegFile) : Bool := !r.flag .z

/-- BEQ's condition: `P.Z = 1` (R228). -/
def condBeq (r : RegFile) : Bool := r.flag .z

end Sys2Proof.Machine
end

