-- ==== Sys2Proof/Machine/Memory.lean ====
section
/-! DEFINITION. Plain memory: 65536 byte-sized locations (20_memory.md R51) as a list in one canonical form. -/

namespace Sys2Proof.Machine

/-- What an address that nothing has written reads as (DESIGN CHOICE, entry 1). -/
def unlistedByte : Byte := 0x00

/-- How many locations the address space has (R6, R51). -/
def addressSpace : Nat := 65536

/-- The byte at an address. -/
def Memory.read : Memory → Nat → Byte
  | [], _ => unlistedByte
  | (k, b) :: rest, a => if a = k then b else Memory.read rest a

/-- Store a byte, keeping the canonical form. -/
def Memory.write : Memory → Nat → Byte → Memory
  | [], a, v => if v = unlistedByte then [] else [(a, v)]
  | (k, b) :: rest, a, v =>
    if a < k then (if v = unlistedByte then (k, b) :: rest else (a, v) :: (k, b) :: rest)
    else if a = k then (if v = unlistedByte then rest else (a, v) :: rest)
    else (k, b) :: Memory.write rest a v

/-- The canonical form from address `low` on: addresses strictly rising inside the address space, no unlisted byte listed. -/
def Memory.wfFrom (low : Nat) : Memory → Bool
  | [] => true
  | (k, b) :: rest => decide (low ≤ k) && decide (k < addressSpace) && b != unlistedByte && Memory.wfFrom (k + 1) rest

/-- The canonical form. -/
def Memory.wf (m : Memory) : Bool := Memory.wfFrom 0 m

end Sys2Proof.Machine
end

