-- ==== Sys2Proof/Machine/Ops.lean ====
section
/-! DEFINITION. The named operations over the state: the bus primitives of 00_scope.md R11 with the record of every access
(20_memory.md R50, R55), the instruction fetch cycles (45_arbiter.md R241), the stack (10_state.md R23), taking the one
exception (60_exceptions.md R264), the vectored transfer of BRK and the return of RTI (43_handbuilt.md R212, R213). -/

namespace Sys2Proof.Machine

/-- Replace the Register File. -/
def State.setRegs (r : RegFile) (s : State) : State := { s with regs := r }

/-- Replace the phase. -/
def State.setPhase (ph : Phase) (s : State) : State := { s with phase := ph }

/-- Replace the plain memory. -/
def State.setMem (m : Memory) (s : State) : State := { s with mem := m }

/-- Record one request in the history. -/
def State.record (acc : BusAccess) (s : State) : State := { s with history := acc :: s.history }

/-- Apply a register function, at the end of a cycle (R10). -/
def State.mapRegs (f : RegFile → RegFile) (s : State) : State := s.setRegs (f s.regs)

/-- The range holds the address. -/
def Region.contains (g : Region) (a : Nat) : Bool := decide (g.first ≤ a) && decide (a ≤ g.last)

/-- Reads at this address are answered freely by the host (R50, D17); the other addresses are plain memory. -/
def State.hostAnswers (s : State) (a : Word) : Bool := s.hostRegions.any (fun g => g.contains a.toNat)

/-- The byte the bus answers to a read made now at `a`: the host's free answer after the requests so far, or the byte plain
memory holds (R50, D17, entries 3 and 4). A bus read never fails. -/
def State.answer (s : State) (a : Word) : Byte :=
  if s.hostAnswers a then Config.busRead s.history a else s.mem.read a.toNat

/-- What a write leaves in plain memory; a write at a host-answered address is in the history only (entry 16). -/
def State.store (a : Word) (v : Byte) (s : State) : State :=
  if s.hostAnswers a then s else s.setMem (s.mem.write a.toNat v)

/-- Perform one request on the bus: record it, and for a write store its byte. -/
def State.perform (acc : BusAccess) (s : State) : State :=
  match acc with
  | .fetch a => s.record (.fetch a)
  | .read a => s.record (.read a)
  | .write a v => (s.store a v).record (.write a v)

/-- `MemRead(a, 1)` (R11): the byte answered, and the state after the access. -/
def State.busRead (a : Word) (s : State) : Byte × State := (s.answer a, s.perform (.read a))

/-- `Dummy(a)` (R11): a read whose value no rule uses. -/
def State.dummyRead (a : Word) (s : State) : State := s.perform (.read a)

/-- `MemWrite(a, 1, v)` (R11). -/
def State.busWrite (a : Word) (v : Byte) (s : State) : State := s.perform (.write a v)

/-- Cycle T0, the opcode fetch: `Read(PC)` with `fetch = 1`, then `PC <- PC + 1` (R241). -/
def State.opcodeFetch (s : State) : State := (s.perform (.fetch s.regs.pc)).mapRegs RegFile.incPc

/-- A cycle that reads an operand byte at PC and advances PC (R24, R161, R162). The byte itself is the instruction's own
operand, as `fetchedBytes` read it (entry 8). -/
def State.operandFetch (s : State) : State := (s.perform (.read s.regs.pc)).mapRegs RegFile.incPc

/-- The bytes the bus answers at PC, PC + 1 and PC + 2 when they are read one after the other as an opcode fetch and two
operand reads: what the decoder is given. Nothing is recorded here; the instruction's own cycles record the reads. -/
def State.fetchedBytes (s : State) : List Byte :=
  let s1 := s.opcodeFetch
  let s2 := s1.operandFetch
  [s.answer s.regs.pc, s1.answer s1.regs.pc, s2.answer s2.regs.pc]

/-- A push: write at `stk(S)`, then decrement S mod 256 (R23, R229). -/
def State.push (v : Byte) (s : State) : State :=
  (s.busWrite (stackAddress s.regs.s) v).mapRegs (fun r => r.setS (r.s - 1))

/-- A pull: read at `stk(S + 1)` and increment S mod 256 (R23, R229). -/
def State.pull (s : State) : Byte × State :=
  let q := s.busRead (stackAddress (s.regs.s + 1))
  (q.1, q.2.mapRegs (fun r => r.setS (r.s + 1)))

/-- The address of the low byte of the BRK vector (R56, R213). -/
def breakVectorLow : Word := 0xFFFE

/-- The address of the high byte of the BRK vector (R56, R213). -/
def breakVectorHigh : Word := 0xFFFF

/-- Taking the exception `IllegalOpcode(op)` in the opcode-fetch cycle: nothing is saved, PC is advanced by the fetch, no
vector is taken, the phase becomes `Halted(op)` (R243, R260, R264). -/
def State.takeIllegalOpcode (op : Byte) (s : State) : State := s.opcodeFetch.setPhase (.halted op)

/-- Cycles T2 to T6 of BRK: push PC high, PC low and `P | 0x30`, set I, load PC from the vector (R213, R261). -/
def State.enterBreak (s : State) : State :=
  let s2 := s.push (hi s.regs.pc)
  let s3 := s2.push (lo s2.regs.pc)
  let s4 := (s3.push s3.regs.pushedP).mapRegs (RegFile.setFlag .i true)
  let low := s4.busRead breakVectorLow
  let high := low.2.busRead breakVectorHigh
  high.2.mapRegs (RegFile.setPc (cat high.1 low.1))

/-- Cycles T3 to T5 of RTI: pull P, PC low and PC high; no 1 is added (R212). -/
def State.returnFromInterrupt (s : State) : State :=
  let p := s.pull
  let low := (p.2.mapRegs (RegFile.pullP p.1)).pull
  let high := low.2.pull
  high.2.mapRegs (RegFile.setPc (cat high.1 low.1))

/-- Bytes placed in plain memory from an address on, wrapping at the end of the address space. -/
def placeBytes : Word → List Byte → Memory → Memory
  | _, [], m => m
  | a, b :: rest, m => placeBytes (a + 1) rest (m.write a.toNat b)

/-- No fetched address of an instruction at `a` is in the range. -/
def Region.sparesFetch (a : Word) (g : Region) : Bool :=
  !(g.contains a.toNat) && !(g.contains (a + 1).toNat) && !(g.contains (a + 2).toNat)

end Sys2Proof.Machine
end

