-- ==== Sys2Proof/Machine/Operands.lean ====
section
/-! DEFINITION. The addressing modes (41_addressing.md R160 to R179): what address each operand form delivers and which
cycles it takes to deliver it. -/

namespace Sys2Proof.Machine

/-- `crossed(base, ea)`: the high bytes differ (R178). -/
def crossed (base ea : Word) : Bool := hi base != hi ea

/-- The unfixed address of an indexed computation, `cat(hi(base), lo(ea))` (R15, R166). -/
def unfixed (base ea : Word) : Word := cat (hi base) (lo ea)

/-- The end of an indexed mode: with a page crossing, or for a write-like operation always, one more cycle reads the
unfixed address (R166, R167, R169, R179). -/
def indexCycle (writeLike : Bool) (base ea : Word) (s : State) : State :=
  if crossed base ea || writeLike then s.dummyRead (unfixed base ea) else s

/-- The cycles of an address-delivering mode after the opcode fetch, and the address it delivers. -/
def resolve (writeLike : Bool) (m : MemOperand) (s : State) : Word × State :=
  match m with
  -- R162
  | .zp z => (zext16 z, s.operandFetch)
  -- R163: the index cycle reads the unindexed base; the sum wraps in page 0
  | .zpx z =>
    let s1 := s.operandFetch
    (zext16 (z + s1.regs.x), s1.dummyRead (zext16 z))
  -- R164
  | .zpy z =>
    let s1 := s.operandFetch
    (zext16 (z + s1.regs.y), s1.dummyRead (zext16 z))
  -- R165
  | .abs a => (a, s.operandFetch.operandFetch)
  -- R166: the sum wraps mod 65536
  | .abx a =>
    let s2 := s.operandFetch.operandFetch
    let ea := a + zext16 s2.regs.x
    (ea, indexCycle writeLike a ea s2)
  -- R167
  | .aby a =>
    let s2 := s.operandFetch.operandFetch
    let ea := a + zext16 s2.regs.y
    (ea, indexCycle writeLike a ea s2)
  -- R168: both pointer bytes come from page 0
  | .izx p =>
    let s1 := s.operandFetch
    let ptr := p + s1.regs.x
    let low := (s1.dummyRead (zext16 p)).busRead (zext16 ptr)
    let high := low.2.busRead (zext16 (ptr + 1))
    (cat high.1 low.1, high.2)
  -- R169
  | .izy p =>
    let low := s.operandFetch.busRead (zext16 p)
    let high := low.2.busRead (zext16 (p + 1))
    let base := cat high.1 low.1
    let ea := base + zext16 high.2.regs.y
    (ea, indexCycle writeLike base ea high.2)
  -- R170: the second pointer byte comes from the pointer's own page
  | .ind a =>
    let low := s.operandFetch.operandFetch.busRead a
    let high := low.2.busRead (cat (hi a) (lo a + 1))
    (cat high.1 low.1, high.2)

/-- The target of a branch: the address after the branch plus the sign-extended offset, mod 65536 (43_handbuilt.md R220). -/
def branchTarget (base : Word) (off : Byte) : Word := base + sext16 off

end Sys2Proof.Machine
end

