-- ==== Sys2Proof/Machine/Compile.lean ====
section
/-! DEFINITION. The instruction-state-machine compiler (42_compiler.md) and the machines it builds, cycle by cycle: the
addressing-mode sequencers and the consumers of 41_addressing.md, the hand-built machines of 43_handbuilt.md. A machine is
plain data (10_state.md R39); its pending Step is computed from it and the Register File. -/

namespace Sys2Proof.Machine

/-- What the Compiler composes for an entry (R74, R191), with the entry's operation function. -/
inductive Composition where
  | read (f : Byte → RegFile → RegFile)
  | write (source : RegFile → Byte)
  | rmw (f : Byte → RegFile → Byte × RegFile)
  | implied (f : RegFile → RegFile)
  | jump
  | jsr
  | rts
  | rti
  | brk
  | push (source : RegFile → Byte)
  | pull (f : Byte → RegFile → RegFile)
  | branch (cond : RegFile → Bool)

/-- A shift or rotate is the single-cycle shape on the accumulator in its ACC form and the read-modify-write shape
otherwise (R191). -/
def shiftComposition (f : Byte → RegFile → Byte × RegFile) : Mode → Composition
  | .acc => .implied (onAccumulator f)
  | _ => .rmw f

/-- Dispatch on the operation identifier (R190, R191). -/
def compositionOf (e : Entry) : Composition :=
  match e.op with
  | .lda => .read opLda
  | .ldx => .read opLdx
  | .ldy => .read opLdy
  | .and => .read opAnd
  | .ora => .read opOra
  | .eor => .read opEor
  | .adc => .read opAdc
  | .sbc => .read opSbc
  | .cmp => .read opCmp
  | .cpx => .read opCpx
  | .cpy => .read opCpy
  | .bit => .read opBit
  | .sta => .write opSta
  | .stx => .write opStx
  | .sty => .write opSty
  | .asl => shiftComposition opAsl e.mode
  | .lsr => shiftComposition opLsr e.mode
  | .rol => shiftComposition opRol e.mode
  | .ror => shiftComposition opRor e.mode
  | .inc => .rmw opInc
  | .dec => .rmw opDec
  | .inx => .implied opInx
  | .iny => .implied opIny
  | .dex => .implied opDex
  | .dey => .implied opDey
  | .tax => .implied opTax
  | .tay => .implied opTay
  | .txa => .implied opTxa
  | .tya => .implied opTya
  | .tsx => .implied opTsx
  | .txs => .implied opTxs
  | .clc => .implied opClc
  | .sec => .implied opSec
  | .cli => .implied opCli
  | .sei => .implied opSei
  | .clv => .implied opClv
  | .cld => .implied opCld
  | .sed => .implied opSed
  | .nop => .implied opNop
  | .jmp => .jump
  | .jsr => .jsr
  | .rts => .rts
  | .rti => .rti
  | .brk => .brk
  | .pha => .push opPha
  | .php => .push opPhp
  | .pla => .pull opPla
  | .plp => .pull opPlp
  | .bpl => .branch condBpl
  | .bmi => .branch condBmi
  | .bvc => .branch condBvc
  | .bvs => .branch condBvs
  | .bcc => .branch condBcc
  | .bcs => .branch condBcs
  | .bne => .branch condBne
  | .beq => .branch condBeq

/-- The write-like signal: true for the `write` and `rmw` classes (R179, R192). -/
def Composition.writeLike : Composition → Bool
  | .write _ => true
  | .rmw _ => true
  | _ => false

/-- A fresh machine of an entry (R194): its first cycle is 1; its latches are given, unspecified by the spec (R40). -/
def StateMachine.fresh (e : Entry) (l : Latches) : StateMachine :=
  { entry := e, t := 1, writeLike := (compositionOf e).writeLike, latches := l }

/-- `compile(opcodeByte) -> StateMachine or null` (R190), total on the 256 byte values. -/
def compile (l : Latches) (op : Byte) : Option StateMachine := (entryOf op).map (fun e => .fresh e l)

/-- What a continuation returns: the Register File at the end of the cycle, and the machine with its next Step, or none for
Done (10_state.md R38). -/
abbrev After := RegFile × Option StateMachine

/-- A Step that takes a cycle (R38): a Read with the continuation of its byte, or a Write with its continuation. -/
inductive BusStep where
  | read (addr : Word) (k : Byte → After)
  | write (addr : Word) (value : Byte) (k : After)

/-- The same machine at its next cycle. -/
def StateMachine.advanced (m : StateMachine) : StateMachine := { m with t := m.t + 1 }

/-- The machine with its latches changed. -/
def StateMachine.latch (f : Latches → Latches) (m : StateMachine) : StateMachine := { m with latches := f m.latches }

/-- The extra cycle of ABX, ABY and IZY is taken (R166, R179). -/
def StateMachine.takesIndexCycle (m : StateMachine) : Bool :=
  crossed m.latches.base m.latches.ea || m.writeLike

/-- How many Steps the addressing mode issues (R160 to R170, R179). -/
def StateMachine.modeCycles (m : StateMachine) : Nat :=
  match m.entry.mode with
  | .imp | .acc | .rel => 0
  | .imm | .zp => 1
  | .zpx | .zpy | .abs => 2
  | .abx | .aby => if m.takesIndexCycle then 3 else 2
  | .izx | .ind => 4
  | .izy => if m.takesIndexCycle then 4 else 3

/-- Continue with the machine's next cycle. -/
def StateMachine.proceed (m : StateMachine) (r : RegFile) : After := (r, some m.advanced)

/-- The end of an indexed address computation: deliver the address, or spend the extra cycle first (R166, R169). -/
def StateMachine.indexed (m : StateMachine) (r : RegFile) (deliver : StateMachine → RegFile → After) : After :=
  if m.takesIndexCycle then m.proceed r else deliver m r

/-- Cycle `m.t` of the machine's addressing mode; `deliver` is the consumer's continuation of the address in `ea`. -/
def modeStep (deliver : StateMachine → RegFile → After) (m : StateMachine) (r : RegFile) : Option BusStep :=
  let l := m.latches
  match m.entry.mode, m.t with
  -- R162
  | .zp, 1 => some (.read r.pc fun v => deliver (m.latch fun l => { l with ea := zext16 v }) r.incPc)
  -- R163
  | .zpx, 1 => some (.read r.pc fun v => (m.latch fun l => { l with adl := v }).proceed r.incPc)
  | .zpx, 2 => some (.read (zext16 l.adl) fun _ => deliver (m.latch fun l => { l with ea := zext16 (l.adl + r.x) }) r)
  -- R164
  | .zpy, 1 => some (.read r.pc fun v => (m.latch fun l => { l with adl := v }).proceed r.incPc)
  | .zpy, 2 => some (.read (zext16 l.adl) fun _ => deliver (m.latch fun l => { l with ea := zext16 (l.adl + r.y) }) r)
  -- R165
  | .abs, 1 => some (.read r.pc fun v => (m.latch fun l => { l with adl := v }).proceed r.incPc)
  | .abs, 2 => some (.read r.pc fun v =>
      deliver (m.latch fun l => { l with adh := v, ea := cat v l.adl }) r.incPc)
  -- R166
  | .abx, 1 => some (.read r.pc fun v => (m.latch fun l => { l with adl := v }).proceed r.incPc)
  | .abx, 2 => some (.read r.pc fun v =>
      (m.latch fun l => { l with adh := v, base := cat v l.adl, ea := cat v l.adl + zext16 r.x }).indexed r.incPc deliver)
  | .abx, 3 => some (.read (cat l.adh (lo l.ea)) fun _ => deliver m r)
  -- R167
  | .aby, 1 => some (.read r.pc fun v => (m.latch fun l => { l with adl := v }).proceed r.incPc)
  | .aby, 2 => some (.read r.pc fun v =>
      (m.latch fun l => { l with adh := v, base := cat v l.adl, ea := cat v l.adl + zext16 r.y }).indexed r.incPc deliver)
  | .aby, 3 => some (.read (cat l.adh (lo l.ea)) fun _ => deliver m r)
  -- R168
  | .izx, 1 => some (.read r.pc fun v => (m.latch fun l => { l with ptr := v }).proceed r.incPc)
  | .izx, 2 => some (.read (zext16 l.ptr) fun _ => (m.latch fun l => { l with ptr := l.ptr + r.x }).proceed r)
  | .izx, 3 => some (.read (zext16 l.ptr) fun v => (m.latch fun l => { l with adl := v }).proceed r)
  | .izx, 4 => some (.read (zext16 (l.ptr + 1)) fun v =>
      deliver (m.latch fun l => { l with adh := v, ea := cat v l.adl }) r)
  -- R169
  | .izy, 1 => some (.read r.pc fun v => (m.latch fun l => { l with ptr := v }).proceed r.incPc)
  | .izy, 2 => some (.read (zext16 l.ptr) fun v => (m.latch fun l => { l with adl := v }).proceed r)
  | .izy, 3 => some (.read (zext16 (l.ptr + 1)) fun v =>
      (m.latch fun l => { l with adh := v, base := cat v l.adl, ea := cat v l.adl + zext16 r.y }).indexed r deliver)
  | .izy, 4 => some (.read (cat l.adh (lo l.ea)) fun _ => deliver m r)
  -- R170
  | .ind, 1 => some (.read r.pc fun v => (m.latch fun l => { l with adl := v }).proceed r.incPc)
  | .ind, 2 => some (.read r.pc fun v => (m.latch fun l => { l with adh := v }).proceed r.incPc)
  | .ind, 3 => some (.read (cat l.adh l.adl) fun v => (m.latch fun l => { l with data := v }).proceed r)
  | .ind, 4 => some (.read (cat l.adh (l.adl + 1)) fun v =>
      deliver (m.latch fun l => { l with ea := cat v l.data }) r)
  | _, _ => none

/-- The cycles of an address-delivering mode, then those of its consumer, counted from 1 (R160, R191). -/
def addressedStep (consumer : Nat → StateMachine → RegFile → Option BusStep) (m : StateMachine) (r : RegFile) :
    Option BusStep :=
  if m.t ≤ m.modeCycles then modeStep StateMachine.proceed m r else consumer (m.t - m.modeCycles) m r

/-- The Dereference Adapter and the value continuation (R172, R173). -/
def readConsumer (f : Byte → RegFile → RegFile) (k : Nat) (m : StateMachine) (r : RegFile) : Option BusStep :=
  match k with
  | 1 => some (.read m.latches.ea fun v => (f v r, none))
  | _ => none

/-- The store continuation (R174). -/
def writeConsumer (source : RegFile → Byte) (k : Nat) (m : StateMachine) (r : RegFile) : Option BusStep :=
  match k with
  | 1 => some (.write m.latches.ea (source r) (r, none))
  | _ => none

/-- The read-modify-write shape (R175). -/
def rmwConsumer (f : Byte → RegFile → Byte × RegFile) (k : Nat) (m : StateMachine) (r : RegFile) : Option BusStep :=
  match k with
  | 1 => some (.read m.latches.ea fun v =>
      (m.latch fun l => { l with data := v, res := (f v r).1 }).proceed (f v r).2)
  | 2 => some (.write m.latches.ea m.latches.data (m.proceed r))
  | 3 => some (.write m.latches.ea m.latches.res (r, none))
  | _ => none

/-- Class `read`: IMM forwards the operand byte itself, any other mode is dereferenced (R161, R172, R191). -/
def readStep (f : Byte → RegFile → RegFile) (m : StateMachine) (r : RegFile) : Option BusStep :=
  match m.entry.mode, m.t with
  | .imm, 1 => some (.read r.pc fun v => (f v r.incPc, none))
  | .imm, _ => none
  | _, _ => addressedStep (readConsumer f) m r

/-- The single-cycle register-only shape (R176). -/
def impliedStep (f : RegFile → RegFile) (m : StateMachine) (r : RegFile) : Option BusStep :=
  match m.t with
  | 1 => some (.read r.pc fun _ => (f r, none))
  | _ => none

/-- Class `jump`: the mode with the jump continuation (R177). -/
def jumpStep (m : StateMachine) (r : RegFile) : Option BusStep :=
  if m.t ≤ m.modeCycles then modeStep (fun m r => (r.setPc m.latches.ea, none)) m r else none

/-- JSR's machine (R210). -/
def jsrStep (m : StateMachine) (r : RegFile) : Option BusStep :=
  match m.t with
  | 1 => some (.read r.pc fun v => (m.latch fun l => { l with adl := v }).proceed r.incPc)
  | 2 => some (.read (stackAddress r.s) fun _ => m.proceed r)
  | 3 => some (.write (stackAddress r.s) (hi r.pc) (m.proceed (r.setS (r.s - 1))))
  | 4 => some (.write (stackAddress r.s) (lo r.pc) (m.proceed (r.setS (r.s - 1))))
  | 5 => some (.read r.pc fun v => (r.setPc (cat v m.latches.adl), none))
  | _ => none

/-- RTS's machine (R211). -/
def rtsStep (m : StateMachine) (r : RegFile) : Option BusStep :=
  match m.t with
  | 1 => some (.read r.pc fun _ => m.proceed r)
  | 2 => some (.read (stackAddress r.s) fun _ => m.proceed r)
  | 3 => some (.read (stackAddress (r.s + 1)) fun v =>
      (m.latch fun l => { l with adl := v }).proceed (r.setS (r.s + 1)))
  | 4 => some (.read (stackAddress (r.s + 1)) fun v =>
      (m.latch fun l => { l with adh := v }).proceed (r.setS (r.s + 1)))
  | 5 => some (.read (cat m.latches.adh m.latches.adl) fun _ =>
      (r.setPc (cat m.latches.adh m.latches.adl + 1), none))
  | _ => none

/-- RTI's machine (R212). -/
def rtiStep (m : StateMachine) (r : RegFile) : Option BusStep :=
  match m.t with
  | 1 => some (.read r.pc fun _ => m.proceed r)
  | 2 => some (.read (stackAddress r.s) fun _ => m.proceed r)
  | 3 => some (.read (stackAddress (r.s + 1)) fun v => m.proceed ((r.setS (r.s + 1)).pullP v))
  | 4 => some (.read (stackAddress (r.s + 1)) fun v =>
      (m.latch fun l => { l with adl := v }).proceed (r.setS (r.s + 1)))
  | 5 => some (.read (stackAddress (r.s + 1)) fun v =>
      ((r.setS (r.s + 1)).setPc (cat v m.latches.adl), none))
  | _ => none

/-- BRK's machine (R213). -/
def brkStep (m : StateMachine) (r : RegFile) : Option BusStep :=
  match m.t with
  | 1 => some (.read r.pc fun _ => m.proceed r.incPc)
  | 2 => some (.write (stackAddress r.s) (hi r.pc) (m.proceed (r.setS (r.s - 1))))
  | 3 => some (.write (stackAddress r.s) (lo r.pc) (m.proceed (r.setS (r.s - 1))))
  | 4 => some (.write (stackAddress r.s) r.pushedP (m.proceed ((r.setS (r.s - 1)).setFlag .i true)))
  | 5 => some (.read breakVectorLow fun v => (m.latch fun l => { l with adl := v }).proceed r)
  | 6 => some (.read breakVectorHigh fun v => (r.setPc (cat v m.latches.adl), none))
  | _ => none

/-- The machine of PHA and PHP (R214, R215). -/
def pushStep (source : RegFile → Byte) (m : StateMachine) (r : RegFile) : Option BusStep :=
  match m.t with
  | 1 => some (.read r.pc fun _ => m.proceed r)
  | 2 => some (.write (stackAddress r.s) (source r) (r.setS (r.s - 1), none))
  | _ => none

/-- The machine of PLA and PLP (R216, R217). -/
def pullStep (f : Byte → RegFile → RegFile) (m : StateMachine) (r : RegFile) : Option BusStep :=
  match m.t with
  | 1 => some (.read r.pc fun _ => m.proceed r)
  | 2 => some (.read (stackAddress r.s) fun _ => m.proceed r)
  | 3 => some (.read (stackAddress (r.s + 1)) fun v => (f v (r.setS (r.s + 1)), none))
  | _ => none

/-- The branch machine (R220). -/
def branchStep (cond : RegFile → Bool) (m : StateMachine) (r : RegFile) : Option BusStep :=
  match m.t with
  | 1 => some (.read r.pc fun v =>
      if cond r.incPc then
        (m.latch fun l => { l with off := v, base := r.incPc.pc, ea := branchTarget r.incPc.pc v }).proceed r.incPc
      else (r.incPc, none))
  | 2 => some (.read r.pc fun _ =>
      if crossed m.latches.base m.latches.ea then m.proceed (r.setPc m.latches.ea)
      else (r.setPc m.latches.ea, none))
  | 3 => some (.read (unfixed m.latches.base m.latches.ea) fun _ => (r, none))
  | _ => none

/-- The pending Step of a machine, computed from the Register File (R191, R193). -/
def pendingStep (m : StateMachine) (r : RegFile) : Option BusStep :=
  match compositionOf m.entry with
  | .read f => readStep f m r
  | .write source => addressedStep (writeConsumer source) m r
  | .rmw f => addressedStep (rmwConsumer f) m r
  | .implied f => impliedStep f m r
  | .jump => jumpStep m r
  | .jsr => jsrStep m r
  | .rts => rtsStep m r
  | .rti => rtiStep m r
  | .brk => brkStep m r
  | .push source => pushStep source m r
  | .pull f => pullStep f m r
  | .branch cond => branchStep cond m r

/-- The number of Steps the machine issues before Done (R195): those of its mode and of its consumer, or those of its
hand-built machine. For an indexed mode or a branch it is meant once `base` and `ea` are latched. -/
def StateMachine.lastCycle (m : StateMachine) : Nat :=
  match compositionOf m.entry with
  | .read _ => match m.entry.mode with
    | .imm => 1
    | _ => m.modeCycles + 1
  | .write _ => m.modeCycles + 1
  | .rmw _ => m.modeCycles + 3
  | .implied _ => 1
  | .jump => m.modeCycles
  | .jsr => 5
  | .rts => 5
  | .rti => 5
  | .brk => 6
  | .push _ => 2
  | .pull _ => 3
  | .branch _ => if crossed m.latches.base m.latches.ea then 3 else 2

end Sys2Proof.Machine
end

