-- ==== Sys2Proof/Machine/Arbiter.lean ====
section
/-! DEFINITION. The cycle-stepped bus-request arbiter and the host interface (45_arbiter.md): the request of a cycle, the
advance of a cycle, the loop that closes them over the state's bus, and the host's moves (R246, R247, R250, R280, R281). -/

namespace Sys2Proof.Machine

/-- Go on from a next state; a fault or a refusal ends there. -/
def Result.andThen (x : Result) (f : State → Result) : Result :=
  match x with
  | .next s => f s
  | .fault e => .fault e
  | .refused e => .refused e

/-- The request a Step makes. -/
def BusStep.access : BusStep → BusAccess
  | .read a _ => .read a
  | .write a v _ => .write a v

/-- The continuation of a Step run on the answer of its cycle; a Write's expects no input (10_state.md R38). -/
def BusStep.run (rdata : Byte) : BusStep → After
  | .read _ k => k rdata
  | .write _ _ k => k

/-- `request(state)`: the bus request of the cycle (R240, R241, R242), none in phase Halted (R243). -/
def request (s : State) : Option BusAccess :=
  match s.phase with
  | .fetch => some (.fetch s.regs.pc)
  | .exec m => (pendingStep m s.regs).map BusStep.access
  | .halted _ => none

/-- The output `fetch` (R240). -/
def fetchOutput (s : State) : Bool :=
  match s.phase with
  | .fetch => true
  | .exec _ => false
  | .halted _ => false

/-- The outputs `illegal` and `illegal_op` (R240): the opcode that failed to compile, in phase Halted only. -/
def illegalOp (s : State) : Option Byte :=
  match s.phase with
  | .fetch => none
  | .exec _ => none
  | .halted op => some op

/-- The end of a cycle: the continuation's registers, and the next phase; Done takes no cycle (R242). -/
def settle (k : After) (s : State) : State :=
  (s.setRegs k.1).setPhase (match k.2 with
    | some m => .exec m
    | none => .fetch)

/-- `advance(state, rdata)`: the register and phase changes of one cycle (R241, R242, R243). The latches of a new machine
are unspecified, a free value indexed by the number of requests so far (entry 9). -/
def advance (rdata : Byte) (s : State) : Result :=
  match s.phase with
  | .fetch =>
    let s1 := s.mapRegs RegFile.incPc
    match compile (Config.freshLatches s1.history.length) rdata with
    | none => .next (s1.setPhase (.halted rdata))
    | some m => .next (s1.setPhase (.exec m))
  | .exec m =>
    match pendingStep m s.regs with
    | none => .fault .noSuchCycle
    | some st => .next (settle (st.run rdata) s)
  | .halted _ => .next s

/-- The byte the state's bus answers in the cycle of a request. -/
def answerTo (acc : BusAccess) (s : State) : Byte :=
  match acc with
  | .fetch a => s.answer a
  | .read a => s.answer a
  | .write _ _ => 0

/-- One cycle of the block on the state's bus: its request, answered in the same cycle (R241 to R243, R250). -/
def cycle (s : State) : Result :=
  match request s with
  | none => advance 0 s
  | some acc => advance (answerTo acc s) (s.perform acc)

/-- `n` cycles. -/
def runCycles : Nat → State → Result
  | 0, s => .next s
  | n + 1, s => (cycle s).andThen (runCycles n)

/-- Cycles until phase Exec is left, at most `n`. -/
def finish : Nat → State → Result
  | 0, s => .next s
  | n + 1, s =>
    match s.phase with
    | .exec _ => (cycle s).andThen (finish n)
    | .fetch => .next s
    | .halted _ => .next s

/-- A machine issues at most 6 Steps (R196). -/
def maxSteps : Nat := 6

/-- One instruction as the arbiter runs it: from the opcode fetch to the next instruction boundary (R248). -/
def runInstruction (s : State) : Result := (cycle s).andThen (finish maxSteps)

/-- The registers a host writes; one it does not write keeps its value (R281). -/
structure HostWrite where
  a : Option Byte
  x : Option Byte
  y : Option Byte
  s : Option Byte
  pc : Option Word
  p : Option Byte
  deriving DecidableEq, Repr

/-- Apply a host's writes; P bit 5 is forced (R26, R246). -/
def HostWrite.apply (w : HostWrite) (r : RegFile) : RegFile :=
  let r1 : RegFile := { r with
    a := w.a.getD r.a
    x := w.x.getD r.x
    y := w.y.getD r.y
    s := w.s.getD r.s
    pc := w.pc.getD r.pc }
  match w.p with
  | none => r1
  | some v => r1.writeP v

/-- A host register write: in phase Fetch only (R246); elsewhere the model gives the host no such move (entry 12). -/
def hostWrite (w : HostWrite) (s : State) : Result :=
  match s.phase with
  | .fetch => .next (s.mapRegs w.apply)
  | .exec _ => .refused .hostWriteOutsideFetch
  | .halted _ => .refused .hostWriteOutsideFetch

/-- A hard reset between two cycles: the machine is discarded, the phase becomes Fetch from any phase, the host may write
registers; every access and register write already done stays (R247, R281, R286). -/
def hardReset (w : HostWrite) (s : State) : State := (s.mapRegs w.apply).setPhase .fetch

/-- Power-up (R42, R280): the registers the host wrote, P bit 5 forced, phase Fetch, on a given bus, no request made. -/
def powerUp (initialRegs : RegFile) (mem : Memory) (hostRegions : List Region) : State :=
  { regs := initialRegs.writeP initialRegs.p
    phase := .fetch
    mem := mem
    hostRegions := hostRegions
    history := [] }

/-- The reset vector the host reads, low byte first (R56). -/
def resetVectorLow : Word := 0xFFFC

/-- The high byte's address of the reset vector (R56). -/
def resetVectorHigh : Word := 0xFFFD

/-- The host's boot duty (2) of 70_reset_and_hazards.md R283: write PC with the two bytes at the reset vector, with no bus
access of the block (R56, R280). Which bytes the host takes is the host's own affair; here they are those `mem` holds
(unlisted: 0x00, entry 1), also where 0xFFFC or 0xFFFD lies inside a host region and a bus read would get the free answer
(DESIGN CHOICE, unsafe, entry 19). -/
def hostBoot (s : State) : Result :=
  hostWrite
    { a := none, x := none, y := none, s := none, p := none
      pc := some (cat (s.mem.read resetVectorHigh.toNat) (s.mem.read resetVectorLow.toNat)) } s

end Sys2Proof.Machine
end

