-- ==== Sys2Proof/Machine/Shapes.lean ====
section
/-! DEFINITION. The shapes an instruction is composed of (42_compiler.md R191), each as the whole sequence of its cycles from
the opcode fetch T0 at PC to Done (40_operations.md R101, 41_addressing.md R172 to R177, 43_handbuilt.md R210 to R220).
Every meaning of the family files is one of these shapes with its operation function and operand form. -/

namespace Sys2Proof.Machine

/-- Class `read`, mode IMM: T1 reads the operand byte at PC and applies the function (R161, R173). -/
def readImmediate (f : Byte → RegFile → RegFile) (v : Byte) (s : State) : Result :=
  .next (s.opcodeFetch.operandFetch.mapRegs (f v))

/-- Class `read`, any other mode: the mode, the Dereference Adapter's read, the function (R172, R173, R191). -/
def readMemory (f : Byte → RegFile → RegFile) (m : MemOperand) (s : State) : Result :=
  let d := resolve false m s.opcodeFetch
  let q := d.2.busRead d.1
  .next (q.2.mapRegs (f q.1))

/-- Class `write`: the mode, then the store continuation's write of the register (R174). -/
def storeMemory (source : RegFile → Byte) (m : MemOperand) (s : State) : Result :=
  let d := resolve true m s.opcodeFetch
  .next (d.2.busWrite d.1 (source d.2.regs))

/-- Class `rmw`: the mode, a read, a write of the unmodified byte, a write of the result (R175). -/
def modifyMemory (f : Byte → RegFile → Byte × RegFile) (m : MemOperand) (s : State) : Result :=
  let d := resolve true m s.opcodeFetch
  let q := d.2.busRead d.1
  let w := f q.1 q.2.regs
  .next (((q.2.setRegs w.2).busWrite d.1 q.1).busWrite d.1 w.1)

/-- Class `implied`: one cycle that reads PC without advancing it and applies the function (R176). -/
def implied (f : RegFile → RegFile) (s : State) : Result :=
  let s1 := s.opcodeFetch
  .next ((s1.dummyRead s1.regs.pc).mapRegs f)

/-- Class `jump`: the mode, then `PC <- ea` in its last cycle (R177). -/
def jump (m : MemOperand) (s : State) : Result :=
  let d := resolve false m s.opcodeFetch
  .next (d.2.mapRegs (RegFile.setPc d.1))

/-- The branch machine (R220): T1 reads the offset; taken, T2 reads PC and writes it, and across a page T3 reads the
unfixed target. -/
def branch (cond : RegFile → Bool) (off : Byte) (s : State) : Result :=
  let s1 := s.opcodeFetch.operandFetch
  let base := s1.regs.pc
  let ea := branchTarget base off
  if cond s1.regs then
    .next (indexCycle false base ea ((s1.dummyRead base).mapRegs (RegFile.setPc ea)))
  else .next s1

/-- PHA and PHP: T1 reads PC, T2 pushes (R214, R215). -/
def pushRegister (source : RegFile → Byte) (s : State) : Result :=
  let s1 := s.opcodeFetch
  let s2 := s1.dummyRead s1.regs.pc
  .next (s2.push (source s2.regs))

/-- The two dummy cycles every pulling instruction starts with: T1 reads PC, T2 reads `stk(S)` (R211, R212, R216, R217). -/
def pullCycles (s : State) : State :=
  let s1 := s.opcodeFetch
  let s2 := s1.dummyRead s1.regs.pc
  s2.dummyRead (stackAddress s2.regs.s)

/-- PLA and PLP: the dummy cycles, then T3 pulls and applies the function (R216, R217). -/
def pullRegister (f : Byte → RegFile → RegFile) (s : State) : Result :=
  let q := (pullCycles s).pull
  .next (q.2.mapRegs (f q.1))

/-- JSR (R210): T1 takes the target's low byte; T2 reads `stk(S)`; T3 and T4 push PC high and low; T5 reads the target's high
byte at PC, after the pushes, so a push that lands on it is seen (entry 8). -/
def jumpSubroutine (a : Word) (s : State) : Result :=
  let s1 := s.opcodeFetch.operandFetch
  let s2 := s1.dummyRead (stackAddress s1.regs.s)
  let s3 := s2.push (hi s2.regs.pc)
  let s4 := s3.push (lo s3.regs.pc)
  let high := s4.busRead s4.regs.pc
  .next (high.2.mapRegs (RegFile.setPc (cat high.1 (lo a))))

/-- RTS (R211): the dummy cycles, T3 and T4 pull PC low and high, T5 reads the pulled address and writes PC one past it. -/
def returnSubroutine (s : State) : Result :=
  let low := (pullCycles s).pull
  let high := low.2.pull
  let a := cat high.1 low.1
  .next ((high.2.dummyRead a).mapRegs (RegFile.setPc (a + 1)))

/-- BRK (R213): T1 reads the padding byte and skips it, then the vectored transfer. -/
def breakInstruction (_pad : Byte) (s : State) : Result := .next s.opcodeFetch.operandFetch.enterBreak

/-- RTI (R212): the dummy cycles, then the return. -/
def returnInterrupt (s : State) : Result := .next (pullCycles s).returnFromInterrupt

end Sys2Proof.Machine
end

