-- ==== Sys2Proof/Machine/Arithmetic.lean ====
section
/-! DEFINITION. The meanings of addition, subtraction and the comparisons (40_operations.md R111 to R115). Each is the shape of its class with its operation
function and operand form. -/

namespace Sys2Proof.Machine

/-- ADC, (indexed indirect),X (R111, R168). -/
def execAdcIzx (p : Byte) (s : State) : Result := readMemory opAdc (.izx p) s

/-- ADC, zero page (R111, R162). -/
def execAdcZp (z : Byte) (s : State) : Result := readMemory opAdc (.zp z) s

/-- ADC, immediate (R111, R161). -/
def execAdcImm (v : Byte) (s : State) : Result := readImmediate opAdc v s

/-- ADC, absolute (R111, R165). -/
def execAdcAbs (a : Word) (s : State) : Result := readMemory opAdc (.abs a) s

/-- ADC, (indirect),Y (R111, R169). -/
def execAdcIzy (p : Byte) (s : State) : Result := readMemory opAdc (.izy p) s

/-- ADC, zero page,X (R111, R163). -/
def execAdcZpx (z : Byte) (s : State) : Result := readMemory opAdc (.zpx z) s

/-- ADC, absolute,Y (R111, R167). -/
def execAdcAby (a : Word) (s : State) : Result := readMemory opAdc (.aby a) s

/-- ADC, absolute,X (R111, R166). -/
def execAdcAbx (a : Word) (s : State) : Result := readMemory opAdc (.abx a) s

/-- SBC, (indexed indirect),X (R112, R168). -/
def execSbcIzx (p : Byte) (s : State) : Result := readMemory opSbc (.izx p) s

/-- SBC, zero page (R112, R162). -/
def execSbcZp (z : Byte) (s : State) : Result := readMemory opSbc (.zp z) s

/-- SBC, immediate (R112, R161). -/
def execSbcImm (v : Byte) (s : State) : Result := readImmediate opSbc v s

/-- SBC, absolute (R112, R165). -/
def execSbcAbs (a : Word) (s : State) : Result := readMemory opSbc (.abs a) s

/-- SBC, (indirect),Y (R112, R169). -/
def execSbcIzy (p : Byte) (s : State) : Result := readMemory opSbc (.izy p) s

/-- SBC, zero page,X (R112, R163). -/
def execSbcZpx (z : Byte) (s : State) : Result := readMemory opSbc (.zpx z) s

/-- SBC, absolute,Y (R112, R167). -/
def execSbcAby (a : Word) (s : State) : Result := readMemory opSbc (.aby a) s

/-- SBC, absolute,X (R112, R166). -/
def execSbcAbx (a : Word) (s : State) : Result := readMemory opSbc (.abx a) s

/-- CMP, (indexed indirect),X (R113, R168). -/
def execCmpIzx (p : Byte) (s : State) : Result := readMemory opCmp (.izx p) s

/-- CMP, zero page (R113, R162). -/
def execCmpZp (z : Byte) (s : State) : Result := readMemory opCmp (.zp z) s

/-- CMP, immediate (R113, R161). -/
def execCmpImm (v : Byte) (s : State) : Result := readImmediate opCmp v s

/-- CMP, absolute (R113, R165). -/
def execCmpAbs (a : Word) (s : State) : Result := readMemory opCmp (.abs a) s

/-- CMP, (indirect),Y (R113, R169). -/
def execCmpIzy (p : Byte) (s : State) : Result := readMemory opCmp (.izy p) s

/-- CMP, zero page,X (R113, R163). -/
def execCmpZpx (z : Byte) (s : State) : Result := readMemory opCmp (.zpx z) s

/-- CMP, absolute,Y (R113, R167). -/
def execCmpAby (a : Word) (s : State) : Result := readMemory opCmp (.aby a) s

/-- CMP, absolute,X (R113, R166). -/
def execCmpAbx (a : Word) (s : State) : Result := readMemory opCmp (.abx a) s

/-- CPX, immediate (R114, R161). -/
def execCpxImm (v : Byte) (s : State) : Result := readImmediate opCpx v s

/-- CPX, zero page (R114, R162). -/
def execCpxZp (z : Byte) (s : State) : Result := readMemory opCpx (.zp z) s

/-- CPX, absolute (R114, R165). -/
def execCpxAbs (a : Word) (s : State) : Result := readMemory opCpx (.abs a) s

/-- CPY, immediate (R115, R161). -/
def execCpyImm (v : Byte) (s : State) : Result := readImmediate opCpy v s

/-- CPY, zero page (R115, R162). -/
def execCpyZp (z : Byte) (s : State) : Result := readMemory opCpy (.zp z) s

/-- CPY, absolute (R115, R165). -/
def execCpyAbs (a : Word) (s : State) : Result := readMemory opCpy (.abs a) s

end Sys2Proof.Machine
end

