-- ==== Sys2Proof/Machine/Branches.lean ====
section
/-! DEFINITION. The meanings of the branches (43_handbuilt.md R220 to R228). Each is the shape of its class with its operation
function and operand form. -/

namespace Sys2Proof.Machine

/-- BPL (R221). -/
def execBpl (off : Byte) (s : State) : Result := branch condBpl off s

/-- BMI (R222). -/
def execBmi (off : Byte) (s : State) : Result := branch condBmi off s

/-- BVC (R223). -/
def execBvc (off : Byte) (s : State) : Result := branch condBvc off s

/-- BVS (R224). -/
def execBvs (off : Byte) (s : State) : Result := branch condBvs off s

/-- BCC (R225). -/
def execBcc (off : Byte) (s : State) : Result := branch condBcc off s

/-- BCS (R226). -/
def execBcs (off : Byte) (s : State) : Result := branch condBcs off s

/-- BNE (R227). -/
def execBne (off : Byte) (s : State) : Result := branch condBne off s

/-- BEQ (R228). -/
def execBeq (off : Byte) (s : State) : Result := branch condBeq off s

end Sys2Proof.Machine
end

