-- ==== Sys2Proof/Machine/Control.lean ====
section
/-! DEFINITION. The meanings of the jumps, subroutine call and return, break and return from interrupt (43_handbuilt.md R210 to R213, R218, R219). Each is the shape of its class with its operation
function and operand form. -/

namespace Sys2Proof.Machine

/-- JMP, absolute (R218, R165). -/
def execJmpAbs (a : Word) (s : State) : Result := jump (.abs a) s

/-- JMP, indirect (R219, R170). -/
def execJmpInd (a : Word) (s : State) : Result := jump (.ind a) s

/-- JSR (R210). -/
def execJsr (a : Word) (s : State) : Result := jumpSubroutine a s

/-- RTS (R211). -/
def execRts (s : State) : Result := returnSubroutine s

/-- BRK (R213). -/
def execBrk (pad : Byte) (s : State) : Result := breakInstruction pad s

/-- RTI (R212). -/
def execRti (s : State) : Result := returnInterrupt s

end Sys2Proof.Machine
end

