-- ==== Sys2Proof/Machine/Count.lean ====
section
/-! DEFINITION. The meanings of the increments and decrements (40_operations.md R121 to R126). Each is the shape of its class with its operation
function and operand form. -/

namespace Sys2Proof.Machine

/-- INC, zero page (R121, R162). -/
def execIncZp (z : Byte) (s : State) : Result := modifyMemory opInc (.zp z) s

/-- INC, absolute (R121, R165). -/
def execIncAbs (a : Word) (s : State) : Result := modifyMemory opInc (.abs a) s

/-- INC, zero page,X (R121, R163). -/
def execIncZpx (z : Byte) (s : State) : Result := modifyMemory opInc (.zpx z) s

/-- INC, absolute,X (R121, R166). -/
def execIncAbx (a : Word) (s : State) : Result := modifyMemory opInc (.abx a) s

/-- DEC, zero page (R122, R162). -/
def execDecZp (z : Byte) (s : State) : Result := modifyMemory opDec (.zp z) s

/-- DEC, absolute (R122, R165). -/
def execDecAbs (a : Word) (s : State) : Result := modifyMemory opDec (.abs a) s

/-- DEC, zero page,X (R122, R163). -/
def execDecZpx (z : Byte) (s : State) : Result := modifyMemory opDec (.zpx z) s

/-- DEC, absolute,X (R122, R166). -/
def execDecAbx (a : Word) (s : State) : Result := modifyMemory opDec (.abx a) s

/-- INX (R123, R176). -/
def execInx (s : State) : Result := implied opInx s

/-- INY (R124, R176). -/
def execIny (s : State) : Result := implied opIny s

/-- DEX (R125, R176). -/
def execDex (s : State) : Result := implied opDex s

/-- DEY (R126, R176). -/
def execDey (s : State) : Result := implied opDey s

end Sys2Proof.Machine
end

