-- ==== Sys2Proof/Machine/FlagOps.lean ====
section
/-! DEFINITION. The meanings of the flag operations and NOP (40_operations.md R133 to R140). Each is the shape of its class with its operation
function and operand form. -/

namespace Sys2Proof.Machine

/-- CLC (R133, R176). -/
def execClc (s : State) : Result := implied opClc s

/-- SEC (R134, R176). -/
def execSec (s : State) : Result := implied opSec s

/-- CLI (R135, R176). -/
def execCli (s : State) : Result := implied opCli s

/-- SEI (R136, R176). -/
def execSei (s : State) : Result := implied opSei s

/-- CLV (R137, R176). -/
def execClv (s : State) : Result := implied opClv s

/-- CLD (R138, R176). -/
def execCld (s : State) : Result := implied opCld s

/-- SED (R139, R176). -/
def execSed (s : State) : Result := implied opSed s

/-- NOP (R140, R176). -/
def execNop (s : State) : Result := implied opNop s

end Sys2Proof.Machine
end

