-- ==== Sys2Proof/Machine/LoadStore.lean ====
section
/-! DEFINITION. The meanings of the loads and stores (40_operations.md R102 to R107). Each is the shape of its class with its operation
function and operand form. -/

namespace Sys2Proof.Machine

/-- LDA, (indexed indirect),X (R102, R168). -/
def execLdaIzx (p : Byte) (s : State) : Result := readMemory opLda (.izx p) s

/-- LDA, zero page (R102, R162). -/
def execLdaZp (z : Byte) (s : State) : Result := readMemory opLda (.zp z) s

/-- LDA, immediate (R102, R161). -/
def execLdaImm (v : Byte) (s : State) : Result := readImmediate opLda v s

/-- LDA, absolute (R102, R165). -/
def execLdaAbs (a : Word) (s : State) : Result := readMemory opLda (.abs a) s

/-- LDA, (indirect),Y (R102, R169). -/
def execLdaIzy (p : Byte) (s : State) : Result := readMemory opLda (.izy p) s

/-- LDA, zero page,X (R102, R163). -/
def execLdaZpx (z : Byte) (s : State) : Result := readMemory opLda (.zpx z) s

/-- LDA, absolute,Y (R102, R167). -/
def execLdaAby (a : Word) (s : State) : Result := readMemory opLda (.aby a) s

/-- LDA, absolute,X (R102, R166). -/
def execLdaAbx (a : Word) (s : State) : Result := readMemory opLda (.abx a) s

/-- LDX, immediate (R103, R161). -/
def execLdxImm (v : Byte) (s : State) : Result := readImmediate opLdx v s

/-- LDX, zero page (R103, R162). -/
def execLdxZp (z : Byte) (s : State) : Result := readMemory opLdx (.zp z) s

/-- LDX, absolute (R103, R165). -/
def execLdxAbs (a : Word) (s : State) : Result := readMemory opLdx (.abs a) s

/-- LDX, zero page,Y (R103, R164). -/
def execLdxZpy (z : Byte) (s : State) : Result := readMemory opLdx (.zpy z) s

/-- LDX, absolute,Y (R103, R167). -/
def execLdxAby (a : Word) (s : State) : Result := readMemory opLdx (.aby a) s

/-- LDY, immediate (R104, R161). -/
def execLdyImm (v : Byte) (s : State) : Result := readImmediate opLdy v s

/-- LDY, zero page (R104, R162). -/
def execLdyZp (z : Byte) (s : State) : Result := readMemory opLdy (.zp z) s

/-- LDY, absolute (R104, R165). -/
def execLdyAbs (a : Word) (s : State) : Result := readMemory opLdy (.abs a) s

/-- LDY, zero page,X (R104, R163). -/
def execLdyZpx (z : Byte) (s : State) : Result := readMemory opLdy (.zpx z) s

/-- LDY, absolute,X (R104, R166). -/
def execLdyAbx (a : Word) (s : State) : Result := readMemory opLdy (.abx a) s

/-- STA, (indexed indirect),X (R105, R168). -/
def execStaIzx (p : Byte) (s : State) : Result := storeMemory opSta (.izx p) s

/-- STA, zero page (R105, R162). -/
def execStaZp (z : Byte) (s : State) : Result := storeMemory opSta (.zp z) s

/-- STA, absolute (R105, R165). -/
def execStaAbs (a : Word) (s : State) : Result := storeMemory opSta (.abs a) s

/-- STA, (indirect),Y (R105, R169). -/
def execStaIzy (p : Byte) (s : State) : Result := storeMemory opSta (.izy p) s

/-- STA, zero page,X (R105, R163). -/
def execStaZpx (z : Byte) (s : State) : Result := storeMemory opSta (.zpx z) s

/-- STA, absolute,Y (R105, R167). -/
def execStaAby (a : Word) (s : State) : Result := storeMemory opSta (.aby a) s

/-- STA, absolute,X (R105, R166). -/
def execStaAbx (a : Word) (s : State) : Result := storeMemory opSta (.abx a) s

/-- STX, zero page (R106, R162). -/
def execStxZp (z : Byte) (s : State) : Result := storeMemory opStx (.zp z) s

/-- STX, absolute (R106, R165). -/
def execStxAbs (a : Word) (s : State) : Result := storeMemory opStx (.abs a) s

/-- STX, zero page,Y (R106, R164). -/
def execStxZpy (z : Byte) (s : State) : Result := storeMemory opStx (.zpy z) s

/-- STY, zero page (R107, R162). -/
def execStyZp (z : Byte) (s : State) : Result := storeMemory opSty (.zp z) s

/-- STY, absolute (R107, R165). -/
def execStyAbs (a : Word) (s : State) : Result := storeMemory opSty (.abs a) s

/-- STY, zero page,X (R107, R163). -/
def execStyZpx (z : Byte) (s : State) : Result := storeMemory opSty (.zpx z) s

end Sys2Proof.Machine
end

