-- ==== Sys2Proof/Machine/Logic.lean ====
section
/-! DEFINITION. The meanings of the logical operations and the bit test (40_operations.md R108 to R110, R116). Each is the shape of its class with its operation
function and operand form. -/

namespace Sys2Proof.Machine

/-- AND, (indexed indirect),X (R108, R168). -/
def execAndIzx (p : Byte) (s : State) : Result := readMemory opAnd (.izx p) s

/-- AND, zero page (R108, R162). -/
def execAndZp (z : Byte) (s : State) : Result := readMemory opAnd (.zp z) s

/-- AND, immediate (R108, R161). -/
def execAndImm (v : Byte) (s : State) : Result := readImmediate opAnd v s

/-- AND, absolute (R108, R165). -/
def execAndAbs (a : Word) (s : State) : Result := readMemory opAnd (.abs a) s

/-- AND, (indirect),Y (R108, R169). -/
def execAndIzy (p : Byte) (s : State) : Result := readMemory opAnd (.izy p) s

/-- AND, zero page,X (R108, R163). -/
def execAndZpx (z : Byte) (s : State) : Result := readMemory opAnd (.zpx z) s

/-- AND, absolute,Y (R108, R167). -/
def execAndAby (a : Word) (s : State) : Result := readMemory opAnd (.aby a) s

/-- AND, absolute,X (R108, R166). -/
def execAndAbx (a : Word) (s : State) : Result := readMemory opAnd (.abx a) s

/-- ORA, (indexed indirect),X (R109, R168). -/
def execOraIzx (p : Byte) (s : State) : Result := readMemory opOra (.izx p) s

/-- ORA, zero page (R109, R162). -/
def execOraZp (z : Byte) (s : State) : Result := readMemory opOra (.zp z) s

/-- ORA, immediate (R109, R161). -/
def execOraImm (v : Byte) (s : State) : Result := readImmediate opOra v s

/-- ORA, absolute (R109, R165). -/
def execOraAbs (a : Word) (s : State) : Result := readMemory opOra (.abs a) s

/-- ORA, (indirect),Y (R109, R169). -/
def execOraIzy (p : Byte) (s : State) : Result := readMemory opOra (.izy p) s

/-- ORA, zero page,X (R109, R163). -/
def execOraZpx (z : Byte) (s : State) : Result := readMemory opOra (.zpx z) s

/-- ORA, absolute,Y (R109, R167). -/
def execOraAby (a : Word) (s : State) : Result := readMemory opOra (.aby a) s

/-- ORA, absolute,X (R109, R166). -/
def execOraAbx (a : Word) (s : State) : Result := readMemory opOra (.abx a) s

/-- EOR, (indexed indirect),X (R110, R168). -/
def execEorIzx (p : Byte) (s : State) : Result := readMemory opEor (.izx p) s

/-- EOR, zero page (R110, R162). -/
def execEorZp (z : Byte) (s : State) : Result := readMemory opEor (.zp z) s

/-- EOR, immediate (R110, R161). -/
def execEorImm (v : Byte) (s : State) : Result := readImmediate opEor v s

/-- EOR, absolute (R110, R165). -/
def execEorAbs (a : Word) (s : State) : Result := readMemory opEor (.abs a) s

/-- EOR, (indirect),Y (R110, R169). -/
def execEorIzy (p : Byte) (s : State) : Result := readMemory opEor (.izy p) s

/-- EOR, zero page,X (R110, R163). -/
def execEorZpx (z : Byte) (s : State) : Result := readMemory opEor (.zpx z) s

/-- EOR, absolute,Y (R110, R167). -/
def execEorAby (a : Word) (s : State) : Result := readMemory opEor (.aby a) s

/-- EOR, absolute,X (R110, R166). -/
def execEorAbx (a : Word) (s : State) : Result := readMemory opEor (.abx a) s

/-- BIT, zero page (R116, R162). -/
def execBitZp (z : Byte) (s : State) : Result := readMemory opBit (.zp z) s

/-- BIT, absolute (R116, R165). -/
def execBitAbs (a : Word) (s : State) : Result := readMemory opBit (.abs a) s

end Sys2Proof.Machine
end

