-- ==== Sys2Proof/Machine/Shift.lean ====
section
/-! DEFINITION. The meanings of the shifts and rotates (40_operations.md R117 to R120). Each is the shape of its class with its operation
function and operand form. -/

namespace Sys2Proof.Machine

/-- ASL, zero page (R117, R162). -/
def execAslZp (z : Byte) (s : State) : Result := modifyMemory opAsl (.zp z) s

/-- ASL, accumulator (R117, R171, R176). -/
def execAslAcc (s : State) : Result := implied (onAccumulator opAsl) s

/-- ASL, absolute (R117, R165). -/
def execAslAbs (a : Word) (s : State) : Result := modifyMemory opAsl (.abs a) s

/-- ASL, zero page,X (R117, R163). -/
def execAslZpx (z : Byte) (s : State) : Result := modifyMemory opAsl (.zpx z) s

/-- ASL, absolute,X (R117, R166). -/
def execAslAbx (a : Word) (s : State) : Result := modifyMemory opAsl (.abx a) s

/-- LSR, zero page (R118, R162). -/
def execLsrZp (z : Byte) (s : State) : Result := modifyMemory opLsr (.zp z) s

/-- LSR, accumulator (R118, R171, R176). -/
def execLsrAcc (s : State) : Result := implied (onAccumulator opLsr) s

/-- LSR, absolute (R118, R165). -/
def execLsrAbs (a : Word) (s : State) : Result := modifyMemory opLsr (.abs a) s

/-- LSR, zero page,X (R118, R163). -/
def execLsrZpx (z : Byte) (s : State) : Result := modifyMemory opLsr (.zpx z) s

/-- LSR, absolute,X (R118, R166). -/
def execLsrAbx (a : Word) (s : State) : Result := modifyMemory opLsr (.abx a) s

/-- ROL, zero page (R119, R162). -/
def execRolZp (z : Byte) (s : State) : Result := modifyMemory opRol (.zp z) s

/-- ROL, accumulator (R119, R171, R176). -/
def execRolAcc (s : State) : Result := implied (onAccumulator opRol) s

/-- ROL, absolute (R119, R165). -/
def execRolAbs (a : Word) (s : State) : Result := modifyMemory opRol (.abs a) s

/-- ROL, zero page,X (R119, R163). -/
def execRolZpx (z : Byte) (s : State) : Result := modifyMemory opRol (.zpx z) s

/-- ROL, absolute,X (R119, R166). -/
def execRolAbx (a : Word) (s : State) : Result := modifyMemory opRol (.abx a) s

/-- ROR, zero page (R120, R162). -/
def execRorZp (z : Byte) (s : State) : Result := modifyMemory opRor (.zp z) s

/-- ROR, accumulator (R120, R171, R176). -/
def execRorAcc (s : State) : Result := implied (onAccumulator opRor) s

/-- ROR, absolute (R120, R165). -/
def execRorAbs (a : Word) (s : State) : Result := modifyMemory opRor (.abs a) s

/-- ROR, zero page,X (R120, R163). -/
def execRorZpx (z : Byte) (s : State) : Result := modifyMemory opRor (.zpx z) s

/-- ROR, absolute,X (R120, R166). -/
def execRorAbx (a : Word) (s : State) : Result := modifyMemory opRor (.abx a) s

end Sys2Proof.Machine
end

