-- ==== Sys2Proof/Machine/Stack.lean ====
section
/-! DEFINITION. The meanings of the stack pushes and pulls (43_handbuilt.md R214 to R217). Each is the shape of its class with its operation
function and operand form. -/

namespace Sys2Proof.Machine

/-- PHA (R214). -/
def execPha (s : State) : Result := pushRegister opPha s

/-- PHP (R215). -/
def execPhp (s : State) : Result := pushRegister opPhp s

/-- PLA (R216). -/
def execPla (s : State) : Result := pullRegister opPla s

/-- PLP (R217). -/
def execPlp (s : State) : Result := pullRegister opPlp s

end Sys2Proof.Machine
end

