-- ==== Sys2Proof/Machine/Transfer.lean ====
section
/-! DEFINITION. The meanings of the register transfers (40_operations.md R127 to R132). Each is the shape of its class with its operation
function and operand form. -/

namespace Sys2Proof.Machine

/-- TAX (R127, R176). -/
def execTax (s : State) : Result := implied opTax s

/-- TAY (R128, R176). -/
def execTay (s : State) : Result := implied opTay s

/-- TXA (R129, R176). -/
def execTxa (s : State) : Result := implied opTxa s

/-- TYA (R130, R176). -/
def execTya (s : State) : Result := implied opTya s

/-- TSX (R131, R176). -/
def execTsx (s : State) : Result := implied opTsx s

/-- TXS (R132, R176). -/
def execTxs (s : State) : Result := implied opTxs s

end Sys2Proof.Machine
end

