-- ==== Sys2Proof/Machine/Step.lean ====
section
/-! DEFINITION. The step: one whole instruction, from an instruction boundary to the next (45_arbiter.md R248, entry 6).
`Machine.cycle` is the step of one cycle; `runInstruction` runs cycles from boundary to boundary. -/

namespace Sys2Proof.Machine

/-- In phase Fetch, the instruction at PC runs whole, or the exception IllegalOpcode is taken (R241, R260). In phase Exec the
pending machine runs to its end (R242). In phase Halted nothing happens any more (R243, entry 10). -/
def step (s : State) : Host.Outcome State Fault Refusal :=
  match s.phase with
  | .fetch =>
    match decode s.fetchedBytes with
    | .ok i _ => exec i s
    | .error _ => .next (s.takeIllegalOpcode (s.answer s.regs.pc))
  | .exec _ => finish maxSteps s
  | .halted _ => .next s

/-- The state with an opcode-table word stored at PC, where step fetches; the fetch needs phase Fetch and plain memory there
(entry 7). -/
def State.withFetchWord (s : State) (nbits w : Nat) : State :=
  { s with
    phase := .fetch
    mem := placeBytes s.regs.pc (tableBytes nbits w) s.mem
    hostRegions := s.hostRegions.filter (Region.sparesFetch s.regs.pc) }

end Sys2Proof.Machine
end

