-- ==== Sys2Proof/Machine/Assembly.lean ====
section
/-! DEFINITION. The assembler syntax (30_encoding.md R79): the text of an instruction at its address, and the offset byte of
a branch to a target. There are no pseudo-instructions (R80). Letter case and spacing are the model's choice (entry 18). -/

namespace Sys2Proof

/-- The mnemonic (R73). -/
def Op.mnemonic : Op → String
  | .adc => "ADC" | .and => "AND" | .asl => "ASL" | .bcc => "BCC" | .bcs => "BCS" | .beq => "BEQ" | .bit => "BIT"
  | .bmi => "BMI" | .bne => "BNE" | .bpl => "BPL" | .brk => "BRK" | .bvc => "BVC" | .bvs => "BVS" | .clc => "CLC"
  | .cld => "CLD" | .cli => "CLI" | .clv => "CLV" | .cmp => "CMP" | .cpx => "CPX" | .cpy => "CPY" | .dec => "DEC"
  | .dex => "DEX" | .dey => "DEY" | .eor => "EOR" | .inc => "INC" | .inx => "INX" | .iny => "INY" | .jmp => "JMP"
  | .jsr => "JSR" | .lda => "LDA" | .ldx => "LDX" | .ldy => "LDY" | .lsr => "LSR" | .nop => "NOP" | .ora => "ORA"
  | .pha => "PHA" | .php => "PHP" | .pla => "PLA" | .plp => "PLP" | .rol => "ROL" | .ror => "ROR" | .rti => "RTI"
  | .rts => "RTS" | .sbc => "SBC" | .sec => "SEC" | .sed => "SED" | .sei => "SEI" | .sta => "STA" | .stx => "STX"
  | .sty => "STY" | .tax => "TAX" | .tay => "TAY" | .tsx => "TSX" | .txa => "TXA" | .txs => "TXS" | .tya => "TYA"

/-- One hexadecimal digit, of a number's low four bits. -/
def hexDigit (n : Nat) : String :=
  match n % 16 with
  | 0 => "0" | 1 => "1" | 2 => "2" | 3 => "3" | 4 => "4" | 5 => "5" | 6 => "6" | 7 => "7"
  | 8 => "8" | 9 => "9" | 10 => "A" | 11 => "B" | 12 => "C" | 13 => "D" | 14 => "E" | _ => "F"

/-- `$nn` (R79). -/
def hexByte (b : Byte) : String := "$" ++ hexDigit (b.toNat / 16) ++ hexDigit b.toNat

/-- `$nnnn` (R79). -/
def hexWord (w : Word) : String :=
  "$" ++ hexDigit (w.toNat / 4096) ++ hexDigit (w.toNat / 256) ++ hexDigit (w.toNat / 16) ++ hexDigit w.toNat

/-- The text of an address-delivering operand form (R79). -/
def MemOperand.text : MemOperand → String
  | .zp z => hexByte z
  | .zpx z => hexByte z ++ ",X"
  | .zpy z => hexByte z ++ ",Y"
  | .abs a => hexWord a
  | .abx a => hexWord a ++ ",X"
  | .aby a => hexWord a ++ ",Y"
  | .izx p => "(" ++ hexByte p ++ ",X)"
  | .izy p => "(" ++ hexByte p ++ "),Y"
  | .ind a => "(" ++ hexWord a ++ ")"

/-- The target a branch at `a` with offset byte `off` is written with (R79, 43_handbuilt.md R220). -/
def targetOf (a : Word) (off : Byte) : Word := a + 2 + sext16 off

/-- The text of an operand form of an instruction at `a`; none for IMP, BRK's padding byte included (R79). -/
def Operand.text (a : Word) : Operand → Option String
  | .imp => none
  | .pad _ => none
  | .acc => some "A"
  | .imm v => some ("#" ++ hexByte v)
  | .mem m => some m.text
  | .rel off => some (hexWord (targetOf a off))

/-- The line of an instruction at `a` (R79). -/
def Instr.text (a : Word) (i : Instr) : String :=
  match i.operand.text a with
  | none => i.op.mnemonic
  | some t => i.op.mnemonic ++ " " ++ t

/-- The offset byte an assembler gives a branch at `a` to the target `t`, `b1 = (t - (a + 2)) mod 256`; it refuses a target
out of range (R79), the difference taken exactly (DESIGN CHOICE, entry 18). -/
def branchOffset (a t : Word) : Option Byte :=
  if branchInRange a t then some (lo (t - (a + 2))) else none

end Sys2Proof
end

