-- ==== Sys2Proof/Safety.lean ====
section
/-! DEFINITION. What counts as a safe state and a safe run, in the terms the statements use: the well-formed states, which
every step, cycle and host move keeps, and the states a host can bring the block to. -/

namespace Sys2Proof.Machine

/-- The machine stands at a cycle of its entry's table (10_state.md R39, 42_compiler.md R192, R196). -/
def StateMachine.ok (m : StateMachine) : Bool :=
  m.entry.wellFormed && decide (1 ≤ m.t) && decide (m.t ≤ m.lastCycle) &&
    m.writeLike == (compositionOf m.entry).writeLike

/-- The phase holds what the arbiter can put there: a machine at a cycle of its table, or an illegal opcode (R37, R243). -/
def Phase.ok : Phase → Bool
  | .fetch => true
  | .exec m => m.ok
  | .halted op => (entryOf op).isNone

/-- A well-formed state: memory in its canonical form, P bit 5 stored as 1 (R26), the phase legal (R37). -/
def State.wellFormed (s : State) : Bool :=
  s.mem.wf && s.regs.p.getLsbD 5 && s.phase.ok

/-- The whole bus is plain memory (92_eei_decisions.md D17). -/
def State.plain (s : State) : Prop := s.hostRegions = []

/-- No illegal opcode has been fetched. -/
def State.running (s : State) : Bool := (illegalOp s).isNone

/-- The states a host can bring the block to: power-up with any registers, memory in its canonical form and any host
regions; then cycles, register writes between instructions and hard resets, in any order (45_arbiter.md R250). -/
inductive Reachable : State → Prop where
  | powerUp (r : RegFile) (mem : Memory) (g : List Region) (h : mem.wf = true) : Reachable (powerUp r mem g)
  | cycle (s t : State) (hs : Reachable s) (h : Machine.cycle s = .next t) : Reachable t
  | hostWrite (w : HostWrite) (s t : State) (hs : Reachable s) (h : Machine.hostWrite w s = .next t) : Reachable t
  | hardReset (w : HostWrite) (s : State) (hs : Reachable s) : Reachable (hardReset w s)

end Sys2Proof.Machine
end

