-- ==== Sys2Proof/Certificates/Slice0/Obligations.lean ====
section
/-! DEFINITION. The statements for the provers. First the words they are written in, then the statements, in the order of
spec/: decoding, the step, the arbiter, the addressing modes, the operation functions, the hand-built machines, the rules
about the whole machine, the invariants. -/

namespace Sys2Proof.Claims

open Sys2Proof.Machine

/-- "N, Z from v" (40_operations.md R100), read from the state after. -/
def nzFrom (v : Byte) (t : State) : Prop :=
  (t.regs.flag .z = true ↔ v = 0) ∧ t.regs.flag .n = v.getLsbD 7

/-- Every flag outside the list is unchanged. -/
def flagsKept (except : List Flag) (s t : State) : Prop :=
  ∀ f : Flag, f ∉ except → t.regs.flag f = s.regs.flag f

/-- Every byte of memory is unchanged. -/
def bytesKept (s t : State) : Prop := ∀ a : Nat, t.mem.read a = s.mem.read a

/-- Every byte of memory is unchanged but those at the listed addresses. -/
def bytesKeptExcept (stored : List Word) (s t : State) : Prop :=
  ∀ a : Nat, (∀ w ∈ stored, w.toNat ≠ a) → t.mem.read a = s.mem.read a

/-- A byte was stored: outside the host's addresses, in a memory of canonical form, it is read back. What memory holds is the
model's instance of the bus (entries 3 and 16); the rules themselves fix the write request. -/
def byteStored (w : Word) (v : Byte) (s t : State) : Prop :=
  s.mem.wf = true → s.hostAnswers w = false → t.mem.read w.toNat = v

/-- The phase and the host's addresses are unchanged. -/
def controlKept (s t : State) : Prop := t.phase = s.phase ∧ t.hostRegions = s.hostRegions

/-- The address after the instruction (30_encoding.md R70). -/
def nextPc (i : Instr) (s : State) : Word := s.regs.pc + BitVec.ofNat 16 i.length

/-- What the bus of `s` answers at `a` after the requests `earlier` (20_memory.md R50). -/
def byteAnswered (s : State) (earlier : List BusAccess) (a : Word) : Byte :=
  if s.hostAnswers a then Config.busRead earlier a else s.mem.read a.toNat

/-- The operand byte M an instruction of class `read` works on: the immediate byte, or the byte read at the address its
mode delivers (41_addressing.md R161, R172). -/
def operandByte (i : Instr) (s : State) : Byte :=
  match i.operand with
  | .imm v => v
  | .mem m =>
    let d := resolve false m s.opcodeFetch
    byteAnswered s d.2.history d.1
  | _ => 0

/-- The address an instruction of class `write` or `rmw` stores to: the one its mode delivers (R174, R175). -/
def storeAddress (m : MemOperand) (s : State) : Word := (resolve true m s.opcodeFetch).1

/-- The value consumers, class `read` (30_encoding.md R74). -/
def readOps : List Op := [.lda, .ldx, .ldy, .and, .ora, .eor, .adc, .sbc, .cmp, .cpx, .cpy, .bit]

/-- The stores, class `write` (R74). -/
def writeOps : List Op := [.sta, .stx, .sty]

/-- The operations of class `rmw` in their memory modes (R74). -/
def rmwOps : List Op := [.asl, .lsr, .rol, .ror, .inc, .dec]

/-- One cycle if the page is crossed (41_addressing.md R178, R179). -/
def crossCycle (base ea : Word) : Nat := if crossed base ea then 1 else 0

/-- The extra cycle of an ABX, ABY or IZY read: one if the sum crosses a page (R179). The base is the delivered address
less the index. -/
def indexExtra (i : Instr) (s : State) : Nat :=
  if i.op ∈ readOps then
    match i.operand with
    | .mem m =>
      let ea := (resolve false m s.opcodeFetch).1
      match m with
      | .abx _ => crossCycle (ea - zext16 s.regs.x) ea
      | .aby _ => crossCycle (ea - zext16 s.regs.y) ea
      | .izy _ => crossCycle (ea - zext16 s.regs.y) ea
      | _ => 0
    | _ => 0
  else 0

/-- The Encoding line of an operation's rule, as (opcode, mode, cycles): every instruction of the operation is on the line
and completes in the line's cycles and the page-crossing cycle of an indexed read, and everything on the line is an
instruction of the operation. -/
def encodingLine (op : Op) (line : List (Byte × Mode × Nat)) : Prop :=
  (∀ (i : Instr) (s : State), i.op = op → ∃ t c, exec i s = .next t ∧ (i.opcode, i.operand.mode, c) ∈ line ∧
    t.history.length = s.history.length + c + indexExtra i s) ∧
  ∀ e ∈ line, ∃ i : Instr, i.op = op ∧ i.opcode = e.1 ∧ i.operand.mode = e.2.1

/-- The requests of a `read`-class instruction: the fetch, the mode's reads, the read of the operand byte (R161, R172). -/
def readRequests (i : Instr) (s : State) : List BusAccess :=
  match i.operand with
  | .mem m =>
    let d := resolve false m s.opcodeFetch
    .read d.1 :: d.2.history
  | _ => .read (s.regs.pc + 1) :: .fetch s.regs.pc :: s.history

/-- What a `read`-class instruction does beside what its rule names: S, memory, phase and the host's addresses unchanged, the
requests of its mode, and it goes on at the next instruction. -/
def readFrame (i : Instr) (s t : State) : Prop :=
  t.regs.s = s.regs.s ∧ t.regs.pc = nextPc i s ∧ bytesKept s t ∧ controlKept s t ∧ t.history = readRequests i s

/-- The effect of the single-cycle shape on everything but A, X, Y, S and P: two reads, PC one further, memory, phase and
the host's addresses unchanged (R176). -/
def impliedFrame (s t : State) : Prop :=
  t.regs.pc = s.regs.pc + 1 ∧ bytesKept s t ∧ controlKept s t ∧
    t.history = .read (s.regs.pc + 1) :: .fetch s.regs.pc :: s.history

/-- The result byte of a shift, rotate, increment or decrement (40_operations.md R117 to R122), with the old carry. -/
def modified (op : Op) (m : Byte) (carry : Bool) : Byte :=
  match op with
  | .asl => BitVec.ofNat 8 (2 * m.toNat)
  | .lsr => BitVec.ofNat 8 (m.toNat / 2)
  | .rol => BitVec.ofNat 8 (2 * m.toNat + carry.toNat)
  | .ror => BitVec.ofNat 8 (m.toNat / 2 + 128 * carry.toNat)
  | .inc => BitVec.ofNat 8 (m.toNat + 1)
  | _ => BitVec.ofNat 8 (m.toNat + 255)

/-- The carry after it: the bit shifted out; INC and DEC leave it (R117 to R122). -/
def modifiedCarry (op : Op) (m : Byte) (carry : Bool) : Bool :=
  match op with
  | .asl => m.getLsbD 7
  | .rol => m.getLsbD 7
  | .lsr => m.getLsbD 0
  | .ror => m.getLsbD 0
  | _ => carry

/-- What a read-modify-write instruction with operand form `m` does (R117 to R122, 41_addressing.md R175): a read, a write of
the unmodified byte and a write of the result, all at the delivered address; C, N and Z; nothing else. -/
def modifiesMemory (i : Instr) (m : MemOperand) (s : State) : Prop :=
  let h := (resolve true m s.opcodeFetch).2.history
  let ea := storeAddress m s
  let data := byteAnswered s h ea
  let res := modified i.op data (s.regs.flag .c)
  ∃ t, exec i s = .next t ∧
    t.history = .write ea res :: .write ea data :: .read ea :: h ∧
    nzFrom res t ∧ t.regs.flag .c = modifiedCarry i.op data (s.regs.flag .c) ∧ flagsKept [.n, .z, .c] s t ∧
    t.regs.a = s.regs.a ∧ t.regs.x = s.regs.x ∧ t.regs.y = s.regs.y ∧ t.regs.s = s.regs.s ∧
    t.regs.pc = nextPc i s ∧ controlKept s t ∧ byteStored ea res s t ∧ bytesKeptExcept [ea] s t

/-- The state after an addressing mode: PC advanced by `n`, the listed requests made, nothing else changed (R160). -/
def afterMode (n : Word) (requests : List BusAccess) (s : State) : State :=
  { s with regs := { s.regs with pc := s.regs.pc + n }, history := requests }

/-- The 105 opcodes with no entry, as 30_encoding.md R76 lists them. -/
def illegalOpcodes : List Byte :=
  [0x02, 0x03, 0x04, 0x07, 0x0B, 0x0C, 0x0F, 0x12, 0x13, 0x14, 0x17, 0x1A, 0x1B, 0x1C, 0x1F, 0x22, 0x23, 0x27, 0x2B, 0x2F,
    0x32, 0x33, 0x34, 0x37, 0x3A, 0x3B, 0x3C, 0x3F, 0x42, 0x43, 0x44, 0x47] ++
  [0x4B, 0x4F, 0x52, 0x53, 0x54, 0x57, 0x5A, 0x5B, 0x5C, 0x5F, 0x62, 0x63, 0x64, 0x67, 0x6B, 0x6F, 0x72, 0x73, 0x74, 0x77,
    0x7A, 0x7B, 0x7C, 0x7F, 0x80, 0x82, 0x83, 0x87, 0x89, 0x8B, 0x8F, 0x92] ++
  [0x93, 0x97, 0x9B, 0x9C, 0x9E, 0x9F, 0xA3, 0xA7, 0xAB, 0xAF, 0xB2, 0xB3, 0xB7, 0xBB, 0xBF, 0xC2, 0xC3, 0xC7, 0xCB, 0xCF,
    0xD2, 0xD3, 0xD4, 0xD7, 0xDA, 0xDB, 0xDC, 0xDF, 0xE2, 0xE3, 0xE7, 0xEB] ++
  [0xEF, 0xF2, 0xF3, 0xF4, 0xF7, 0xFA, 0xFB, 0xFC, 0xFF]

/-- The operand bytes of each mode, as 30_encoding.md R70 tabulates them. -/
def operandByteCount : Mode → Nat
  | .imp => 0
  | .acc => 0
  | .imm => 1
  | .zp => 1
  | .zpx => 1
  | .zpy => 1
  | .abs => 2
  | .abx => 2
  | .aby => 2
  | .izx => 1
  | .izy => 1
  | .ind => 2
  | .rel => 1

/-- The composed cycle counts of 42_compiler.md R195, without the data-dependent extra cycles. -/
def composedCycles (i : Instr) : Nat :=
  if i.op ∈ readOps then
    match i.operand.mode with
    | .imm => 2
    | .zp => 3
    | .zpx => 4
    | .zpy => 4
    | .abs => 4
    | .abx => 4
    | .aby => 4
    | .izx => 6
    | _ => 5
  else if i.op ∈ writeOps then
    match i.operand.mode with
    | .zp => 3
    | .zpx => 4
    | .zpy => 4
    | .abs => 4
    | .abx => 5
    | .aby => 5
    | _ => 6
  else
    match i.op, i.operand.mode with
    | .jsr, _ => 6
    | .rts, _ => 6
    | .rti, _ => 6
    | .brk, _ => 7
    | .pha, _ => 3
    | .php, _ => 3
    | .pla, _ => 4
    | .plp, _ => 4
    | .jmp, .abs => 3
    | .jmp, _ => 5
    | _, .zp => 5
    | _, .zpx => 6
    | _, .abs => 6
    | _, .abx => 7
    | _, _ => 2

/-- The flag a branch tests and the value it branches on (43_handbuilt.md R221 to R228). -/
def branchTest : Op → Option (Flag × Bool)
  | .bpl => some (.n, false)
  | .bmi => some (.n, true)
  | .bvc => some (.v, false)
  | .bvs => some (.v, true)
  | .bcc => some (.c, false)
  | .bcs => some (.c, true)
  | .bne => some (.z, false)
  | .beq => some (.z, true)
  | _ => none

/-- The extra cycles of a branch: one if taken, one more if taken across a page (R220). -/
def branchExtra (i : Instr) (s : State) : Nat :=
  match branchTest i.op, i.operand with
  | some (f, v), .rel off =>
    if s.regs.flag f = v then 1 + crossCycle (s.regs.pc + 2) (s.regs.pc + 2 + sext16 off) else 0
  | _, _ => 0

/-- The operations that write a flag (10_state.md R28 to R34; bit 5 is written by none). -/
def flagWriters : Flag → List Op
  | .n => [.lda, .ldx, .ldy, .adc, .sbc, .and, .ora, .eor, .cmp, .cpx, .cpy, .asl, .lsr, .rol, .ror, .inc, .dec, .inx, .iny,
      .dex, .dey, .tax, .tay, .txa, .tya, .tsx, .pla, .bit, .plp, .rti]
  | .z => [.lda, .ldx, .ldy, .adc, .sbc, .and, .ora, .eor, .cmp, .cpx, .cpy, .asl, .lsr, .rol, .ror, .inc, .dec, .inx, .iny,
      .dex, .dey, .tax, .tay, .txa, .tya, .tsx, .pla, .bit, .plp, .rti]
  | .v => [.adc, .sbc, .bit, .clv, .plp, .rti]
  | .b => [.plp, .rti]
  | .d => [.sed, .cld, .plp, .rti]
  | .i => [.sei, .brk, .cli, .plp, .rti]
  | .c => [.adc, .sbc, .cmp, .cpx, .cpy, .asl, .rol, .lsr, .ror, .sec, .clc, .plp, .rti]
  | .u => []

/-- The operations that write A (R21; the operation rules of 40_operations.md). -/
def aWriters : List Op := [.lda, .pla, .txa, .tya, .and, .ora, .eor, .adc, .sbc, .asl, .lsr, .rol, .ror]

/-- The operations that write X (R22). -/
def xWriters : List Op := [.ldx, .tax, .tsx, .inx, .dex]

/-- The operations that write Y (R22). -/
def yWriters : List Op := [.ldy, .tay, .iny, .dey]

/-- The operations that write S (R23). -/
def sWriters : List Op := [.txs, .pha, .php, .pla, .plp, .jsr, .rts, .rti, .brk]

/-- The operations that push on the stack (R23). -/
def pushOps : List Op := [.pha, .php, .jsr, .brk]

/-- The arbiter is in phase Exec. -/
def inExec (s : State) : Prop := ∃ m, s.phase = .exec m

/-- A host write that writes nothing. -/
def noWrite : HostWrite := { a := none, x := none, y := none, s := none, pc := none, p := none }

end Sys2Proof.Claims

open Sys2Proof Sys2Proof.Machine Sys2Proof.Claims

/-! ### Encoding and decoding -/

/-- Decoding the encoding of any instruction, with any bytes after it, gives the instruction and those bytes. -/
def Obligations.DecodeOfEncodeIsTheInstruction : Prop :=
  ∀ (i : Instr) (rest : List Byte), decode (encode i ++ rest) = .ok i rest

/-- Where decoding gives an instruction, the bytes it took are exactly that instruction's encoding. -/
def Obligations.EncodeOfDecodeIsTheBytes : Prop :=
  ∀ (bytes : List Byte) (i : Instr) (rest : List Byte), decode bytes = .ok i rest → bytes = encode i ++ rest

/-- 30_encoding.md R76: exactly the 105 listed opcodes are illegal: whatever follows them they do not decode, `compile`
returns null, and the arbiter takes IllegalOpcode; every other opcode decodes with its operand bytes and compiles. -/
def Obligations.ExactlyTheListedOpcodesAreIllegal : Prop :=
  illegalOpcodes.length = 105 ∧
  ∀ (op b1 b2 : Byte) (rest : List Byte),
    (op ∈ illegalOpcodes → decode (op :: rest) = .error (.illegalOpcode op) ∧ (∀ l : Latches, compile l op = none) ∧
      ∀ s : State, s.phase = .fetch → ∃ t, advance op s = .next t ∧ t.phase = .halted op ∧ illegalOp t = some op) ∧
    (op ∉ illegalOpcodes → (∃ i tail, decode (op :: b1 :: b2 :: rest) = .ok i tail ∧ i.opcode = op) ∧
      ∀ l : Latches, ∃ m, compile l op = some m)

/-- Decoding of words written out from the encodings of 40_operations.md and 43_handbuilt.md, one per family. -/
def Obligations.DecodingOfWrittenOutWords : Prop :=
  decode [0xA9, 0x5A] = .ok (.ldaImm 0x5A) [] ∧
  decode [0x96, 0x80] = .ok (.stxZpy 0x80) [] ∧
  decode [0x3D, 0x34, 0x12] = .ok (.andAbx 0x1234) [] ∧
  decode [0x61, 0x32] = .ok (.adcIzx 0x32) [] ∧
  decode [0x1E, 0xFF, 0x12] = .ok (.aslAbx 0x12FF) [] ∧
  decode [0xE6, 0x10] = .ok (.incZp 0x10) [] ∧
  decode [0xBA] = .ok .tsx [] ∧
  decode [0xF8] = .ok .sed [] ∧
  decode [0x6C, 0xFF, 0x30] = .ok (.jmpInd 0x30FF) [] ∧
  decode [0x20, 0x34, 0x12] = .ok (.jsr 0x1234) [] ∧
  decode [0x00, 0xEA] = .ok (.brk 0xEA) [] ∧
  decode [0x28] = .ok .plp [] ∧
  decode [0xD0, 0xFA] = .ok (.bne 0xFA) []

/-- 30_encoding.md R70: the length of an instruction is fixed by the mode of its entry; BRK is 2 bytes long. -/
def Obligations.LengthIsFixedByTheMode : Prop :=
  ∀ i : Instr, i.length = (if i.op = .brk then 2 else 1 + operandByteCount i.operand.mode) ∧
    entryOf i.opcode = some i.entry

/-- 30_encoding.md R79: the offset byte an assembler gives a branch at `a` to the target `t` brings the branch to `t`. The
refusal clause is the model's reading of R79's range (entry 18, DESIGN CHOICE, unsafe): the difference of the two 16-bit
addresses is exact, so a target that is near only after wrapping mod 65536, such as 0x0001 from 0xFFFE, is refused too. -/
def Obligations.AssembledBranchesReachTheirTarget : Prop :=
  ∀ a t : Word,
    (∀ b, branchOffset a t = some b → targetOf a b = t ∧ b.toInt = (t.toNat : Int) - ((a.toNat : Int) + 2)) ∧
    (branchOffset a t = none ↔
      (t.toNat : Int) - ((a.toNat : Int) + 2) < -128 ∨ 127 < (t.toNat : Int) - ((a.toNat : Int) + 2))

/-! ### The step -/

/-- When the bytes fetched at PC decode, the step is the meaning of the instruction and nothing more. -/
def Obligations.StepRunsTheDecodedInstruction : Prop :=
  ∀ (s : State) (i : Instr) (rest : List Byte),
    s.phase = .fetch → decode s.fetchedBytes = .ok i rest → step s = exec i s

/-- When plain memory holds the encoding of an instruction at PC (PC wrapping mod 65536), the step runs that instruction
(20_memory.md R54, R60). -/
def Obligations.StepRunsTheInstructionInMemory : Prop :=
  ∀ (s : State) (i : Instr), s.phase = .fetch → s.plain →
    (∀ k, k < i.length → (encode i)[k]? = some (s.mem.read (s.regs.pc + BitVec.ofNat 16 k).toNat)) →
    step s = exec i s

/-- 60_exceptions.md R260, R264: fetching an illegal opcode takes IllegalOpcode: phase Halted with the opcode recorded, PC
one past it, no other register, no memory byte and no other bus access. -/
def Obligations.IllegalOpcodeHaltsTheBlock : Prop :=
  ∀ s : State, s.phase = .fetch → byteAnswered s s.history s.regs.pc ∈ illegalOpcodes →
    let op := byteAnswered s s.history s.regs.pc
    let t : State := { s with
      phase := .halted op
      regs := { s.regs with pc := s.regs.pc + 1 }
      history := .fetch s.regs.pc :: s.history }
    step s = .next t ∧ cycle s = .next t ∧ illegalOp t = some op

/-- 45_arbiter.md R243, R247: in phase Halted there is no request and every cycle leaves the state as it is; a hard reset
leaves the phase. That the step of a whole instruction answers the same state is the model's choice (entry 10). -/
def Obligations.HaltedStaysHalted : Prop :=
  ∀ (s : State) (op : Byte), s.phase = .halted op →
    request s = none ∧ (∀ rdata, advance rdata s = .next s) ∧ cycle s = .next s ∧ step s = .next s ∧
      illegalOp s = some op ∧ ∀ w : HostWrite, (hardReset w s).phase = .fetch

/-! ### The arbiter and the compiler -/

/-- 45_arbiter.md R241, R242, R248: running the cycle-stepped machine from an opcode fetch to the next instruction boundary
is the step of the instruction, in every register, memory byte and bus request. -/
def Obligations.StepIsTheArbitersCycles : Prop :=
  ∀ s : State, s.phase = .fetch → runInstruction s = step s

/-- 42_compiler.md R196: from an opcode fetch, some number of cycles, at most 7, leaves phase Exec, at least 2 unless the
opcode is illegal; the phase is Exec after every cycle before, and each cycle makes one request. -/
def Obligations.EveryInstructionEndsWithinSevenCycles : Prop :=
  ∀ s : State, s.phase = .fetch →
    ∃ n t, 1 ≤ n ∧ n ≤ 7 ∧ runCycles n s = .next t ∧ ¬ inExec t ∧ t.history.length = s.history.length + n ∧
      (n = 1 ↔ ∃ op, t.phase = .halted op) ∧
      ∀ k, 1 ≤ k → k < n → ∃ u, runCycles k s = .next u ∧ inExec u ∧ u.history.length = s.history.length + k

/-- 42_compiler.md R195: every instruction completes in its composed cycle count, which is the `cycles` field of its table
row, one more for an indexed read that crosses a page, one or two more for a taken branch. -/
def Obligations.EveryInstructionTakesItsCycles : Prop :=
  ∀ (i : Instr) (s : State), ∃ t, exec i s = .next t ∧
    t.history.length = s.history.length + composedCycles i + indexExtra i s + branchExtra i s ∧
    (rowOf i.opcode).map Row.cycles = some (composedCycles i)

/-- 45_arbiter.md R241: in phase Fetch the request is the read of PC with `fetch` set; PC advances by 1; the answered byte
is compiled, and the phase becomes Exec with the machine of its entry at its first cycle, or Halted. -/
def Obligations.FetchCycleCompilesTheOpcode : Prop :=
  ∀ (s : State) (op : Byte), s.phase = .fetch →
    request s = some (.fetch s.regs.pc) ∧ fetchOutput s = true ∧
    ∃ t, advance op s = .next t ∧ t.regs = { s.regs with pc := s.regs.pc + 1 } ∧ t.mem = s.mem ∧
      t.hostRegions = s.hostRegions ∧ t.history = s.history ∧
      (∀ e, entryOf op = some e → ∃ m, t.phase = .exec m ∧ m.entry = e ∧ m.t = 1) ∧
      (entryOf op = none → t.phase = .halted op)

/-- 42_compiler.md R193: the first Step of every compiled machine is a read at PC, which is already past the opcode. -/
def Obligations.FirstStepReadsPc : Prop :=
  ∀ s t : State, s.phase = .fetch → cycle s = .next t → inExec t →
    t.regs.pc = s.regs.pc + 1 ∧ request t = some (.read t.regs.pc)

/-- 20_memory.md R55, R58: a cycle makes at most one request, which is recorded, and changes no byte of memory but the one
its write names. -/
def Obligations.OneRequestPerCycle : Prop :=
  ∀ s t : State, cycle s = .next t →
    t.history = (request s).toList ++ s.history ∧ t.hostRegions = s.hostRegions ∧
    (∀ a : Nat, (∀ w v, request s = some (.write w v) → w.toNat ≠ a) → t.mem.read a = s.mem.read a) ∧
    (∀ w v, request s = some (.write w v) → byteStored w v s t)

/-- 42_compiler.md R197: in phase Exec the request, the registers and the phase after a cycle depend on the machine, the
Register File and the answered byte alone, not on memory, history or the host's addresses. -/
def Obligations.ExecCycleDependsOnRegistersAndAnswer : Prop :=
  ∀ (s s' : State) (rdata : Byte), inExec s → s'.phase = s.phase → s'.regs = s.regs →
    request s' = request s ∧
    ∀ t, advance rdata s = .next t →
      ∃ t', advance rdata s' = .next t' ∧ t'.regs = t.regs ∧ t'.phase = t.phase ∧ t'.mem = s'.mem ∧ t'.history = s'.history

/-- 45_arbiter.md R246: a host register write is taken in phase Fetch, where a written P is stored with bit 5 set and an
unwritten register keeps its value; in phases Exec and Halted there is no such move. -/
def Obligations.HostWritesRegistersInFetchOnly : Prop :=
  ∀ (w : HostWrite) (s : State),
    (s.phase = .fetch → ∃ t, hostWrite w s = .next t ∧ t.phase = .fetch ∧ t.mem = s.mem ∧ t.history = s.history ∧
      t.hostRegions = s.hostRegions ∧
      t.regs.a = w.a.getD s.regs.a ∧ t.regs.x = w.x.getD s.regs.x ∧ t.regs.y = w.y.getD s.regs.y ∧
      t.regs.s = w.s.getD s.regs.s ∧ t.regs.pc = w.pc.getD s.regs.pc ∧
      (∀ v, w.p = some v → t.regs.p = v ||| 0x20) ∧ (w.p = none → t.regs.p = s.regs.p)) ∧
    (s.phase ≠ .fetch → hostWrite w s = .refused .hostWriteOutsideFetch)

/-- 45_arbiter.md R247, 70_reset_and_hazards.md R281: a hard reset from any phase gives phase Fetch, undoes no access, and
changes no register the host does not write. -/
def Obligations.HardResetDiscardsTheMachineOnly : Prop :=
  ∀ (w : HostWrite) (s : State),
    let t := hardReset w s
    t.phase = .fetch ∧ t.mem = s.mem ∧ t.history = s.history ∧ t.hostRegions = s.hostRegions ∧
      t.regs.a = w.a.getD s.regs.a ∧ t.regs.x = w.x.getD s.regs.x ∧ t.regs.y = w.y.getD s.regs.y ∧
      t.regs.s = w.s.getD s.regs.s ∧ t.regs.pc = w.pc.getD s.regs.pc ∧
      (∀ v, w.p = some v → t.regs.p = v ||| 0x20) ∧ (w.p = none → t.regs.p = s.regs.p)

/-! ### The addressing modes -/

/-- 41_addressing.md R162, R163, R164: the zero-page modes deliver an address in page 0, the indexed ones the sum mod 256,
after a read of the unindexed base; ZPY is used by LDX and STX alone. -/
def Obligations.ZeroPageModesStayInPageZero : Prop :=
  (∀ (wl : Bool) (z : Byte) (s : State),
    let one : List BusAccess := .read s.regs.pc :: s.history
    let two : List BusAccess := .read (cat 0x00 z) :: one
    resolve wl (.zp z) s = (cat 0x00 z, afterMode 1 one s) ∧
    resolve wl (.zpx z) s = (cat 0x00 (BitVec.ofNat 8 ((z.toNat + s.regs.x.toNat) % 256)), afterMode 1 two s) ∧
    resolve wl (.zpy z) s = (cat 0x00 (BitVec.ofNat 8 ((z.toNat + s.regs.y.toNat) % 256)), afterMode 1 two s)) ∧
  ∀ i : Instr, i.operand.mode = .zpy → i.op = .ldx ∨ i.op = .stx

/-- 41_addressing.md R165, R166, R167: the absolute modes; the indexed sums wrap mod 65536; the extra read of the unfixed
address is made for a write-like operation or when the high byte changes. -/
def Obligations.AbsoluteModesAddTheIndex : Prop :=
  ∀ (wl : Bool) (a : Word) (s : State),
    let two : List BusAccess := .read (s.regs.pc + 1) :: .read s.regs.pc :: s.history
    resolve wl (.abs a) s = (a, afterMode 2 two s) ∧
    ∀ (index : Byte) (m : MemOperand), (m = .abx a ∧ index = s.regs.x) ∨ (m = .aby a ∧ index = s.regs.y) →
      let ea := BitVec.ofNat 16 ((a.toNat + index.toNat) % 65536)
      resolve wl m s = (ea, afterMode 2
        (if wl = true ∨ hi a ≠ hi ea then BusAccess.read (cat (hi a) (lo ea)) :: two else two) s)

/-- 41_addressing.md R168: the pointer is taken mod 256 after adding X, and both its bytes come from page 0. -/
def Obligations.IndexedIndirectReadsPageZero : Prop :=
  ∀ (wl : Bool) (p : Byte) (s : State),
    let ptr := BitVec.ofNat 8 ((p.toNat + s.regs.x.toNat) % 256)
    let h2 : List BusAccess := .read (cat 0x00 p) :: .read s.regs.pc :: s.history
    let low := byteAnswered s h2 (cat 0x00 ptr)
    let high := byteAnswered s (.read (cat 0x00 ptr) :: h2) (cat 0x00 (ptr + 1))
    resolve wl (.izx p) s =
      (cat high low, afterMode 1 (.read (cat 0x00 (ptr + 1)) :: .read (cat 0x00 ptr) :: h2) s)

/-- 41_addressing.md R169: the base comes from page 0, with 8-bit wraparound between its two bytes; Y is added mod 65536;
the extra read is that of the absolute indexed modes. -/
def Obligations.IndirectIndexedAddsY : Prop :=
  ∀ (wl : Bool) (p : Byte) (s : State),
    let h1 : List BusAccess := .read s.regs.pc :: s.history
    let low := byteAnswered s h1 (cat 0x00 p)
    let high := byteAnswered s (.read (cat 0x00 p) :: h1) (cat 0x00 (p + 1))
    let base := cat high low
    let ea := BitVec.ofNat 16 ((base.toNat + s.regs.y.toNat) % 65536)
    let h3 : List BusAccess := .read (cat 0x00 (p + 1)) :: .read (cat 0x00 p) :: h1
    resolve wl (.izy p) s = (ea, afterMode 1
      (if wl = true ∨ hi base ≠ hi ea then BusAccess.read (cat high (lo ea)) :: h3 else h3) s)

/-! ### Operation functions -/

/-- 40_operations.md R102, R103, R104: LDA, LDX and LDY write their register with M and set N and Z from it. -/
def Obligations.LoadsWriteTheirRegister : Prop :=
  encodingLine .lda [(0xA9, .imm, 2), (0xA5, .zp, 3), (0xB5, .zpx, 4), (0xAD, .abs, 4), (0xBD, .abx, 4), (0xB9, .aby, 4),
    (0xA1, .izx, 6), (0xB1, .izy, 5)] ∧
  encodingLine .ldx [(0xA2, .imm, 2), (0xA6, .zp, 3), (0xB6, .zpy, 4), (0xAE, .abs, 4), (0xBE, .aby, 4)] ∧
  encodingLine .ldy [(0xA0, .imm, 2), (0xA4, .zp, 3), (0xB4, .zpx, 4), (0xAC, .abs, 4), (0xBC, .abx, 4)] ∧
  ∀ (i : Instr) (s : State), i.op = .lda ∨ i.op = .ldx ∨ i.op = .ldy →
    let m := operandByte i s
    ∃ t, exec i s = .next t ∧ nzFrom m t ∧ flagsKept [.n, .z] s t ∧ readFrame i s t ∧
      t.regs.a = (if i.op = .lda then m else s.regs.a) ∧
      t.regs.x = (if i.op = .ldx then m else s.regs.x) ∧
      t.regs.y = (if i.op = .ldy then m else s.regs.y)

/-- 40_operations.md R105, R106, R107 and 41_addressing.md R174: STA, STX and STY write their register at the address their
mode delivers, in one write after the mode's cycles, and change no register but PC and no other byte. The cycle before the
write of ABX, ABY and IZY is always the dummy read at the unfixed address. -/
def Obligations.StoresWriteTheirByte : Prop :=
  encodingLine .sta [(0x85, .zp, 3), (0x95, .zpx, 4), (0x8D, .abs, 4), (0x9D, .abx, 5), (0x99, .aby, 5), (0x81, .izx, 6),
    (0x91, .izy, 6)] ∧
  encodingLine .stx [(0x86, .zp, 3), (0x96, .zpy, 4), (0x8E, .abs, 4)] ∧
  encodingLine .sty [(0x84, .zp, 3), (0x94, .zpx, 4), (0x8C, .abs, 4)] ∧
  ∀ (i : Instr) (m : MemOperand) (s : State), i.op ∈ writeOps → i.operand = .mem m →
    let v := if i.op = .sta then s.regs.a else if i.op = .stx then s.regs.x else s.regs.y
    ∃ t, exec i s = .next t ∧
      t.history = .write (storeAddress m s) v :: (resolve true m s.opcodeFetch).2.history ∧
      t.regs = { s.regs with pc := nextPc i s } ∧ controlKept s t ∧
      byteStored (storeAddress m s) v s t ∧ bytesKeptExcept [storeAddress m s] s t ∧
      ∀ base : Word, (m = .abx base ∨ m = .aby base ∨
          ∃ p, m = .izy p ∧ base = storeAddress m s - zext16 s.regs.y) →
        t.history[1]? = some (.read (cat (hi base) (lo (storeAddress m s))))

/-- 40_operations.md R108, R109, R110: AND, ORA and EOR write A with the bitwise result and set N and Z from it. -/
def Obligations.LogicalOperationsWriteA : Prop :=
  encodingLine .and [(0x29, .imm, 2), (0x25, .zp, 3), (0x35, .zpx, 4), (0x2D, .abs, 4), (0x3D, .abx, 4), (0x39, .aby, 4),
    (0x21, .izx, 6), (0x31, .izy, 5)] ∧
  encodingLine .ora [(0x09, .imm, 2), (0x05, .zp, 3), (0x15, .zpx, 4), (0x0D, .abs, 4), (0x1D, .abx, 4), (0x19, .aby, 4),
    (0x01, .izx, 6), (0x11, .izy, 5)] ∧
  encodingLine .eor [(0x49, .imm, 2), (0x45, .zp, 3), (0x55, .zpx, 4), (0x4D, .abs, 4), (0x5D, .abx, 4), (0x59, .aby, 4),
    (0x41, .izx, 6), (0x51, .izy, 5)] ∧
  ∀ (i : Instr) (s : State), i.op = .and ∨ i.op = .ora ∨ i.op = .eor →
    let m := operandByte i s
    ∃ t, exec i s = .next t ∧ nzFrom t.regs.a t ∧ flagsKept [.n, .z] s t ∧ readFrame i s t ∧
      t.regs.x = s.regs.x ∧ t.regs.y = s.regs.y ∧
      ∀ k, k < 8 → t.regs.a.getLsbD k =
        (if i.op = .and then s.regs.a.getLsbD k && m.getLsbD k
        else if i.op = .ora then s.regs.a.getLsbD k || m.getLsbD k
        else xor (s.regs.a.getLsbD k) (m.getLsbD k))

/-- 40_operations.md R111: ADC with P.D = 0 adds M and the carry to A; with P.D = 1 it takes the open parameter. -/
def Obligations.AdcAddsWithCarry : Prop :=
  encodingLine .adc [(0x69, .imm, 2), (0x65, .zp, 3), (0x75, .zpx, 4), (0x6D, .abs, 4), (0x7D, .abx, 4), (0x79, .aby, 4),
    (0x61, .izx, 6), (0x71, .izy, 5)] ∧
  ∀ (i : Instr) (s : State), i.op = .adc →
    let m := operandByte i s
    let sum := s.regs.a.toNat + m.toNat + (s.regs.flag .c).toNat
    ∃ t, exec i s = .next t ∧ flagsKept [.n, .v, .z, .c] s t ∧ readFrame i s t ∧
      t.regs.x = s.regs.x ∧ t.regs.y = s.regs.y ∧
      (s.regs.flag .d = false →
        t.regs.a.toNat = sum % 256 ∧ (t.regs.flag .c = true ↔ 255 < sum) ∧ nzFrom t.regs.a t ∧
        t.regs.flag .v = (s.regs.a.getLsbD 7 != t.regs.a.getLsbD 7 && m.getLsbD 7 != t.regs.a.getLsbD 7)) ∧
      (s.regs.flag .d = true →
        let q := Config.decimalAdc s.regs.a m (s.regs.flag .c)
        t.regs.a = q.r ∧ t.regs.flag .n = q.n ∧ t.regs.flag .v = q.v ∧ t.regs.flag .z = q.z ∧ t.regs.flag .c = q.c)

/-- 40_operations.md R112: SBC with P.D = 0 subtracts M and the borrow from A, C meaning no borrow; with P.D = 1 it takes
the open parameter. -/
def Obligations.SbcSubtractsWithBorrow : Prop :=
  encodingLine .sbc [(0xE9, .imm, 2), (0xE5, .zp, 3), (0xF5, .zpx, 4), (0xED, .abs, 4), (0xFD, .abx, 4), (0xF9, .aby, 4),
    (0xE1, .izx, 6), (0xF1, .izy, 5)] ∧
  ∀ (i : Instr) (s : State), i.op = .sbc →
    let m := operandByte i s
    let borrow : Nat := if s.regs.flag .c then 0 else 1
    ∃ t, exec i s = .next t ∧ flagsKept [.n, .v, .z, .c] s t ∧ readFrame i s t ∧
      t.regs.x = s.regs.x ∧ t.regs.y = s.regs.y ∧
      (s.regs.flag .d = false →
        t.regs.a.toNat = (s.regs.a.toNat + 512 - m.toNat - borrow) % 256 ∧
        (t.regs.flag .c = true ↔ m.toNat + borrow ≤ s.regs.a.toNat) ∧ nzFrom t.regs.a t ∧
        t.regs.flag .v = (s.regs.a.getLsbD 7 != t.regs.a.getLsbD 7 && m.getLsbD 7 == t.regs.a.getLsbD 7)) ∧
      (s.regs.flag .d = true →
        let q := Config.decimalSbc s.regs.a m (s.regs.flag .c)
        t.regs.a = q.r ∧ t.regs.flag .n = q.n ∧ t.regs.flag .v = q.v ∧ t.regs.flag .z = q.z ∧ t.regs.flag .c = q.c)

/-- 40_operations.md R142: V after a binary addition or subtraction is the two's-complement overflow of the operation on
signed bytes, and C is the unsigned carry, for subtraction no borrow. -/
def Obligations.OverflowIsTheSignedOverflow : Prop :=
  ∀ (a m : Byte) (c : Bool),
    let borrow : Nat := if c then 0 else 1
    ((binaryAdd a m c).v = true ↔
      (a.toInt + m.toInt + c.toNat < -128 ∨ 127 < a.toInt + m.toInt + c.toNat)) ∧
    ((binaryAdd a m c).c = true ↔ 255 < a.toNat + m.toNat + c.toNat) ∧
    ((binarySub a m c).v = true ↔
      (a.toInt - m.toInt - borrow < -128 ∨ 127 < a.toInt - m.toInt - borrow)) ∧
    ((binarySub a m c).c = true ↔ m.toNat + borrow ≤ a.toNat)

/-- 40_operations.md R113, R114, R115: CMP, CPX and CPY compare their register with M and write C, N and Z alone. -/
def Obligations.ComparisonsWriteFlagsOnly : Prop :=
  encodingLine .cmp [(0xC9, .imm, 2), (0xC5, .zp, 3), (0xD5, .zpx, 4), (0xCD, .abs, 4), (0xDD, .abx, 4), (0xD9, .aby, 4),
    (0xC1, .izx, 6), (0xD1, .izy, 5)] ∧
  encodingLine .cpx [(0xE0, .imm, 2), (0xE4, .zp, 3), (0xEC, .abs, 4)] ∧
  encodingLine .cpy [(0xC0, .imm, 2), (0xC4, .zp, 3), (0xCC, .abs, 4)] ∧
  ∀ (i : Instr) (s : State), i.op = .cmp ∨ i.op = .cpx ∨ i.op = .cpy →
    let m := operandByte i s
    let r := if i.op = .cmp then s.regs.a else if i.op = .cpx then s.regs.x else s.regs.y
    ∃ t, exec i s = .next t ∧ (t.regs.flag .c = true ↔ m.toNat ≤ r.toNat) ∧ (t.regs.flag .z = true ↔ r = m) ∧
      nzFrom (BitVec.ofNat 8 ((r.toNat + 256 - m.toNat) % 256)) t ∧ flagsKept [.n, .z, .c] s t ∧ readFrame i s t ∧
      t.regs.a = s.regs.a ∧ t.regs.x = s.regs.x ∧ t.regs.y = s.regs.y

/-- 40_operations.md R116: BIT sets Z from A and M, N and V from bits 7 and 6 of M, and writes no register. -/
def Obligations.BitTestsTheOperand : Prop :=
  encodingLine .bit [(0x24, .zp, 3), (0x2C, .abs, 4)] ∧
  ∀ (i : Instr) (s : State), i.op = .bit →
    let m := operandByte i s
    ∃ t, exec i s = .next t ∧ (t.regs.flag .z = true ↔ s.regs.a &&& m = 0) ∧ t.regs.flag .n = m.getLsbD 7 ∧
      t.regs.flag .v = m.getLsbD 6 ∧ flagsKept [.n, .v, .z] s t ∧ readFrame i s t ∧
      t.regs.a = s.regs.a ∧ t.regs.x = s.regs.x ∧ t.regs.y = s.regs.y

/-- 40_operations.md R117 to R120: ASL, LSR, ROL and ROR. The ACC forms shift A; the memory forms read, write the unmodified
byte and write the result at the delivered address. C is the bit shifted out, N and Z come from the result. -/
def Obligations.ShiftsAndRotates : Prop :=
  encodingLine .asl [(0x0A, .acc, 2), (0x06, .zp, 5), (0x16, .zpx, 6), (0x0E, .abs, 6), (0x1E, .abx, 7)] ∧
  encodingLine .lsr [(0x4A, .acc, 2), (0x46, .zp, 5), (0x56, .zpx, 6), (0x4E, .abs, 6), (0x5E, .abx, 7)] ∧
  encodingLine .rol [(0x2A, .acc, 2), (0x26, .zp, 5), (0x36, .zpx, 6), (0x2E, .abs, 6), (0x3E, .abx, 7)] ∧
  encodingLine .ror [(0x6A, .acc, 2), (0x66, .zp, 5), (0x76, .zpx, 6), (0x6E, .abs, 6), (0x7E, .abx, 7)] ∧
  ∀ (i : Instr) (s : State), i.op = .asl ∨ i.op = .lsr ∨ i.op = .rol ∨ i.op = .ror →
    (i.operand = .acc →
      ∃ t, exec i s = .next t ∧ t.regs.a = modified i.op s.regs.a (s.regs.flag .c) ∧
        t.regs.flag .c = modifiedCarry i.op s.regs.a (s.regs.flag .c) ∧ nzFrom t.regs.a t ∧ flagsKept [.n, .z, .c] s t ∧
        t.regs.x = s.regs.x ∧ t.regs.y = s.regs.y ∧ t.regs.s = s.regs.s ∧ impliedFrame s t) ∧
    ∀ m : MemOperand, i.operand = .mem m → modifiesMemory i m s

/-- 40_operations.md R121, R122: INC and DEC read, write the unmodified byte and write the byte plus or minus 1 mod 256 at the
delivered address; N and Z come from the result, C and V are unchanged. -/
def Obligations.MemoryIncrementAndDecrement : Prop :=
  encodingLine .inc [(0xE6, .zp, 5), (0xF6, .zpx, 6), (0xEE, .abs, 6), (0xFE, .abx, 7)] ∧
  encodingLine .dec [(0xC6, .zp, 5), (0xD6, .zpx, 6), (0xCE, .abs, 6), (0xDE, .abx, 7)] ∧
  ∀ (i : Instr) (m : MemOperand) (s : State), i.op = .inc ∨ i.op = .dec → i.operand = .mem m → modifiesMemory i m s

/-- 40_operations.md R123 to R126: INX, INY, DEX and DEY count their register mod 256 and set N and Z from it. -/
def Obligations.IndexRegistersCount : Prop :=
  encodingLine .inx [(0xE8, .imp, 2)] ∧ encodingLine .iny [(0xC8, .imp, 2)] ∧ encodingLine .dex [(0xCA, .imp, 2)] ∧
  encodingLine .dey [(0x88, .imp, 2)] ∧
  ∀ (i : Instr) (s : State), i = .inx ∨ i = .iny ∨ i = .dex ∨ i = .dey →
    ∃ t, exec i s = .next t ∧ flagsKept [.n, .z] s t ∧ t.regs.a = s.regs.a ∧ t.regs.s = s.regs.s ∧ impliedFrame s t ∧
      (i = .inx → t.regs.x.toNat = (s.regs.x.toNat + 1) % 256) ∧
      (i = .dex → t.regs.x.toNat = (s.regs.x.toNat + 255) % 256) ∧
      (i = .inx ∨ i = .dex → nzFrom t.regs.x t ∧ t.regs.y = s.regs.y) ∧
      (i = .iny → t.regs.y.toNat = (s.regs.y.toNat + 1) % 256) ∧
      (i = .dey → t.regs.y.toNat = (s.regs.y.toNat + 255) % 256) ∧
      (i = .iny ∨ i = .dey → nzFrom t.regs.y t ∧ t.regs.x = s.regs.x)

/-- 40_operations.md R127 to R132: the register transfers; all but TXS set N and Z from the moved byte. -/
def Obligations.TransfersCopyARegister : Prop :=
  encodingLine .tax [(0xAA, .imp, 2)] ∧ encodingLine .tay [(0xA8, .imp, 2)] ∧ encodingLine .txa [(0x8A, .imp, 2)] ∧
  encodingLine .tya [(0x98, .imp, 2)] ∧ encodingLine .tsx [(0xBA, .imp, 2)] ∧ encodingLine .txs [(0x9A, .imp, 2)] ∧
  (∀ s : State, exec .txs s = .next { s with
    regs := { s.regs with s := s.regs.x, pc := s.regs.pc + 1 }
    history := .read (s.regs.pc + 1) :: .fetch s.regs.pc :: s.history }) ∧
  ∀ (i : Instr) (s : State), i = .tax ∨ i = .tay ∨ i = .txa ∨ i = .tya ∨ i = .tsx →
    let v := if i = .tax ∨ i = .tay then s.regs.a else if i = .txa then s.regs.x else if i = .tya then s.regs.y else s.regs.s
    ∃ t, exec i s = .next t ∧ nzFrom v t ∧ flagsKept [.n, .z] s t ∧ t.regs.s = s.regs.s ∧ impliedFrame s t ∧
      t.regs.x = (if i = .tax ∨ i = .tsx then v else s.regs.x) ∧
      t.regs.y = (if i = .tay then v else s.regs.y) ∧
      t.regs.a = (if i = .txa ∨ i = .tya then v else s.regs.a)

/-- 40_operations.md R133 to R140: the flag operations write their bit of P and nothing else; NOP changes PC alone. -/
def Obligations.FlagOperationsWriteOneBit : Prop :=
  ∀ s : State,
    let p := s.regs.p ||| 0x20
    let after := fun q : Byte => ({ s with
      regs := { s.regs with pc := s.regs.pc + 1, p := q }
      history := .read (s.regs.pc + 1) :: .fetch s.regs.pc :: s.history } : State)
    (encode .clc = [0x18] ∧ exec .clc s = .next (after (p &&& 0xFE))) ∧
    (encode .sec = [0x38] ∧ exec .sec s = .next (after (p ||| 0x01))) ∧
    (encode .cli = [0x58] ∧ exec .cli s = .next (after (p &&& 0xFB))) ∧
    (encode .sei = [0x78] ∧ exec .sei s = .next (after (p ||| 0x04))) ∧
    (encode .clv = [0xB8] ∧ exec .clv s = .next (after (p &&& 0xBF))) ∧
    (encode .cld = [0xD8] ∧ exec .cld s = .next (after (p &&& 0xF7))) ∧
    (encode .sed = [0xF8] ∧ exec .sed s = .next (after (p ||| 0x08))) ∧
    (encode .nop = [0xEA] ∧ exec .nop s = .next (after s.regs.p))

/-! ### Hand-built machines -/

/-- 43_handbuilt.md R214, R215: PHA and PHP read PC, write A or `P | 0x30` at the stack address and decrement S mod 256. -/
def Obligations.PushesWriteAtTheStackAddress : Prop :=
  encode .pha = [0x48] ∧ encode .php = [0x08] ∧
  ∀ (i : Instr) (s : State), i = .pha ∨ i = .php →
    let v := if i = .pha then s.regs.a else s.regs.p ||| 0x30
    let sp := cat 0x01 s.regs.s
    ∃ t, exec i s = .next t ∧
      t.regs = { s.regs with s := s.regs.s - 1, pc := s.regs.pc + 1 } ∧ controlKept s t ∧
      t.history = .write sp v :: .read (s.regs.pc + 1) :: .fetch s.regs.pc :: s.history ∧
      byteStored sp v s t ∧ bytesKeptExcept [sp] s t

/-- 43_handbuilt.md R216, R217: PLA and PLP read PC and the stack address, increment S mod 256 and read the pulled byte
there; PLA writes A, N and Z, PLP writes P with bit 5 set and B clear. -/
def Obligations.PullsReadAboveTheStackAddress : Prop :=
  encode .pla = [0x68] ∧ encode .plp = [0x28] ∧
  ∀ (i : Instr) (s : State), i = .pla ∨ i = .plp →
    let up := cat 0x01 (s.regs.s + 1)
    let h : List BusAccess := .read (cat 0x01 s.regs.s) :: .read (s.regs.pc + 1) :: .fetch s.regs.pc :: s.history
    let d := byteAnswered s h up
    ∃ t, exec i s = .next t ∧ t.history = .read up :: h ∧ t.regs.s = s.regs.s + 1 ∧ t.regs.pc = s.regs.pc + 1 ∧
      t.regs.x = s.regs.x ∧ t.regs.y = s.regs.y ∧ bytesKept s t ∧ controlKept s t ∧
      (i = .pla → t.regs.a = d ∧ nzFrom d t ∧ flagsKept [.n, .z] s t) ∧
      (i = .plp → t.regs.a = s.regs.a ∧ t.regs.p = (d ||| 0x20) &&& 0xEF)

/-- 43_handbuilt.md R210: JSR pushes `a + 2`, high byte first, and goes to the target, whose high byte is read from the
bus after the two pushes. -/
def Obligations.JsrPushesTheReturnAddress : Prop :=
  ∀ (target : Word) (s : State),
    let ret := s.regs.pc + 2
    let sp1 := cat 0x01 s.regs.s
    let sp2 := cat 0x01 (s.regs.s - 1)
    encode (.jsr target) = [0x20, lo target, hi target] ∧
    ∃ t, exec (.jsr target) s = .next t ∧ controlKept s t ∧
      t.history = .read ret :: .write sp2 (lo ret) :: .write sp1 (hi ret) :: .read sp1 :: .read (s.regs.pc + 1) ::
        .fetch s.regs.pc :: s.history ∧
      t.regs = { s.regs with
        s := s.regs.s - 2
        pc := cat (byteAnswered t t.history.tail ret) (lo target) } ∧
      byteStored sp1 (hi ret) s t ∧ byteStored sp2 (lo ret) s t ∧ bytesKeptExcept [sp1, sp2] s t ∧
      (s.plain → s.mem.read ret.toNat = hi target → ret ≠ sp1 → ret ≠ sp2 → t.regs.pc = target)

/-- 43_handbuilt.md R211: RTS pulls a 16-bit address, low byte first, and goes to the address one past it. -/
def Obligations.RtsReturnsPastThePulledAddress : Prop :=
  ∀ s : State,
    let up1 := cat 0x01 (s.regs.s + 1)
    let up2 := cat 0x01 (s.regs.s + 2)
    let h : List BusAccess := .read (cat 0x01 s.regs.s) :: .read (s.regs.pc + 1) :: .fetch s.regs.pc :: s.history
    let low := byteAnswered s h up1
    let high := byteAnswered s (.read up1 :: h) up2
    encode .rts = [0x60] ∧
    exec .rts s = .next { s with
      regs := { s.regs with s := s.regs.s + 2, pc := cat high low + 1 }
      history := .read (cat high low) :: .read up2 :: .read up1 :: h }

/-- 43_handbuilt.md R213, 60_exceptions.md R261: BRK skips a byte, pushes `a + 2` and `P | 0x30`, sets I, and goes to the
address the vector at 0xFFFE and 0xFFFF holds after the pushes. -/
def Obligations.BrkPushesAndVectors : Prop :=
  ∀ (pad : Byte) (s : State),
    let ret := s.regs.pc + 2
    let sp1 := cat 0x01 s.regs.s
    let sp2 := cat 0x01 (s.regs.s - 1)
    let sp3 := cat 0x01 (s.regs.s - 2)
    encode (.brk pad) = [0x00, pad] ∧
    ∃ t, exec (.brk pad) s = .next t ∧ controlKept s t ∧
      t.history = .read 0xFFFF :: .read 0xFFFE :: .write sp3 (s.regs.p ||| 0x30) :: .write sp2 (lo ret) ::
        .write sp1 (hi ret) :: .read (s.regs.pc + 1) :: .fetch s.regs.pc :: s.history ∧
      t.regs = { s.regs with
        s := s.regs.s - 3
        p := s.regs.p ||| 0x24
        pc := cat (byteAnswered t t.history.tail 0xFFFF) (byteAnswered t t.history.tail.tail 0xFFFE) } ∧
      byteStored sp1 (hi ret) s t ∧ byteStored sp2 (lo ret) s t ∧ byteStored sp3 (s.regs.p ||| 0x30) s t ∧
      bytesKeptExcept [sp1, sp2, sp3] s t

/-- 43_handbuilt.md R212: RTI pulls P (bit 5 set, B clear) and PC, low byte first, with no 1 added. -/
def Obligations.RtiRestoresStatusAndPc : Prop :=
  ∀ s : State,
    let up1 := cat 0x01 (s.regs.s + 1)
    let up2 := cat 0x01 (s.regs.s + 2)
    let up3 := cat 0x01 (s.regs.s + 3)
    let h : List BusAccess := .read (cat 0x01 s.regs.s) :: .read (s.regs.pc + 1) :: .fetch s.regs.pc :: s.history
    let d := byteAnswered s h up1
    let low := byteAnswered s (.read up1 :: h) up2
    let high := byteAnswered s (.read up2 :: .read up1 :: h) up3
    encode .rti = [0x40] ∧
    exec .rti s = .next { s with
      regs := { s.regs with s := s.regs.s + 3, p := (d ||| 0x20) &&& 0xEF, pc := cat high low }
      history := .read up3 :: .read up2 :: .read up1 :: h }

/-- 43_handbuilt.md R218, R219, 41_addressing.md R170: JMP goes to its absolute address, or to the address its pointer
holds, whose high byte comes from the start of the pointer's page when the pointer's low byte is 0xFF. -/
def Obligations.JumpsReplaceThePc : Prop :=
  ∀ (a : Word) (s : State),
    let h : List BusAccess := .read (s.regs.pc + 2) :: .read (s.regs.pc + 1) :: .fetch s.regs.pc :: s.history
    let a' := if lo a = 0xFF then a &&& 0xFF00 else a + 1
    let low := byteAnswered s h a
    let high := byteAnswered s (.read a :: h) a'
    (encode (.jmpAbs a) = [0x4C, lo a, hi a] ∧
      exec (.jmpAbs a) s = .next { s with regs := { s.regs with pc := a }, history := h }) ∧
    (encode (.jmpInd a) = [0x6C, lo a, hi a] ∧
      exec (.jmpInd a) s = .next { s with
        regs := { s.regs with pc := cat high low }
        history := .read a' :: .read a :: h })

/-- 43_handbuilt.md R220 to R228: a branch tests its flag; not taken it goes on after 2 cycles; taken it goes to the
address after the branch plus the signed offset, mod 65536, with one more read, or two across a page. -/
def Obligations.BranchesTestTheirFlag : Prop :=
  (∀ off : Byte, encode (.bpl off) = [0x10, off] ∧ encode (.bmi off) = [0x30, off] ∧ encode (.bvc off) = [0x50, off] ∧
    encode (.bvs off) = [0x70, off] ∧ encode (.bcc off) = [0x90, off] ∧ encode (.bcs off) = [0xB0, off] ∧
    encode (.bne off) = [0xD0, off] ∧ encode (.beq off) = [0xF0, off]) ∧
  ∀ (i : Instr) (off : Byte) (f : Flag) (v : Bool) (s : State),
    branchTest i.op = some (f, v) → i.operand = .rel off →
    let base := s.regs.pc + 2
    let ea := BitVec.ofInt 16 ((base.toNat : Int) + off.toInt)
    let h : List BusAccess := .read (s.regs.pc + 1) :: .fetch s.regs.pc :: s.history
    (s.regs.flag f ≠ v → exec i s = .next { s with regs := { s.regs with pc := base }, history := h }) ∧
    (s.regs.flag f = v → hi ea = hi base →
      exec i s = .next { s with regs := { s.regs with pc := ea }, history := .read base :: h }) ∧
    (s.regs.flag f = v → hi ea ≠ hi base →
      exec i s = .next { s with
        regs := { s.regs with pc := ea }
        history := .read (cat (hi base) (lo ea)) :: .read base :: h })

/-! ### Round trips -/

/-- JSR and then RTS, from any S, come back to the instruction after the JSR with S, A, X, Y and P as they were, on a bus
of plain memory (43_handbuilt.md R210, R211). -/
def Obligations.RtsAfterJsrReturns : Prop :=
  ∀ (target : Word) (s t : State) (entry : Word), s.mem.wf = true → s.plain → exec (.jsr target) s = .next t →
    ∃ u, exec .rts { t with regs := { t.regs with pc := entry } } = .next u ∧
      u.regs = { s.regs with pc := s.regs.pc + 3 }

/-- BRK and then RTI, from any S, come back past the skipped byte with S, A, X and Y as they were, P with B clear and
bit 5 set, on a bus of plain memory (43_handbuilt.md R212, R213). -/
def Obligations.RtiAfterBrkReturns : Prop :=
  ∀ (pad : Byte) (s t : State) (entry : Word), s.mem.wf = true → s.plain → exec (.brk pad) s = .next t →
    ∃ u, exec .rti { t with regs := { t.regs with pc := entry } } = .next u ∧
      u.regs = { s.regs with pc := s.regs.pc + 2, p := (s.regs.p ||| 0x20) &&& 0xEF }

/-- PHP and then PLP, on a bus of plain memory in canonical form, go on after the two instructions with every register but PC
and P as it was, and P with B clear and bit 5 set, which is the P before if and only if B was clear and bit 5 stored as 1
(43_handbuilt.md R215, R217; 92_eei_decisions.md D9). -/
def Obligations.PlpAfterPhpRestoresStatus : Prop :=
  ∀ s t : State, s.mem.wf = true → s.plain → exec .php s = .next t →
    ∃ u, exec .plp t = .next u ∧
      u.regs = { s.regs with pc := s.regs.pc + 2, p := (s.regs.p ||| 0x20) &&& 0xEF } ∧
      (u.regs.p = s.regs.p ↔ s.regs.flag .b = false ∧ s.regs.p.getLsbD 5 = true)

/-! ### Rules about the whole machine -/

/-- 10_state.md R28 to R34: an operation outside a flag's list of writers leaves that flag as it is. -/
def Obligations.OnlyItsWritersChangeAFlag : Prop :=
  ∀ (i : Instr) (s : State) (f : Flag), i.op ∉ flagWriters f →
    ∃ t, exec i s = .next t ∧ t.regs.flag f = s.regs.flag f

/-- 10_state.md R21, R22, R23: an operation outside a register's list of writers leaves that register as it is. -/
def Obligations.OnlyItsWritersChangeARegister : Prop :=
  ∀ (i : Instr) (s : State), ∃ t, exec i s = .next t ∧
    (i.op ∉ aWriters → t.regs.a = s.regs.a) ∧ (i.op ∉ xWriters → t.regs.x = s.regs.x) ∧
    (i.op ∉ yWriters → t.regs.y = s.regs.y) ∧ (i.op ∉ sWriters → t.regs.s = s.regs.s)

/-- 10_state.md R26: no instruction stores P with bit 5 clear: P is either not written, or written with bit 5 set. -/
def Obligations.NoWriteClearsTheUnusedBit : Prop :=
  ∀ (i : Instr) (s t : State), exec i s = .next t →
    (t.regs.p = s.regs.p ∨ t.regs.p.getLsbD 5 = true) ∧ t.regs.readP.getLsbD 5 = true

/-- An instruction that is no store, no read-modify-write in a memory mode and no push leaves every byte of memory as it is
(30_encoding.md R74, 41_addressing.md R173 to R177), on the model's bus of plain memory and host regions (entries 3, 16). -/
def Obligations.OnlyStoringInstructionsChangeMemory : Prop :=
  ∀ (i : Instr) (s : State), i.op ∉ writeOps → i.op ∉ pushOps → (i.op ∈ rmwOps → i.operand = .acc) →
    ∃ t, exec i s = .next t ∧ bytesKept s t

/-- 43_handbuilt.md R229, 10_state.md R23: an instruction that pushes changes no byte outside page 1. -/
def Obligations.PushesStayInPageOne : Prop :=
  ∀ (i : Instr) (s : State), i.op ∈ pushOps →
    ∃ t, exec i s = .next t ∧ ∀ a : Nat, a < 0x0100 ∨ 0x01FF < a → t.mem.read a = s.mem.read a

/-- 20_memory.md R56: an instruction with a zero-page operand form changes no byte outside page 0. -/
def Obligations.ZeroPageStoresStayInPageZero : Prop :=
  ∀ (i : Instr) (s : State), i.operand.mode = .zp ∨ i.operand.mode = .zpx ∨ i.operand.mode = .zpy →
    ∃ t, exec i s = .next t ∧ ∀ a : Nat, 0x00FF < a → t.mem.read a = s.mem.read a

/-- 20_memory.md R58, R60: the byte of a bus write is what the next read at that address is answered, and reads elsewhere
are answered as before, where the bus is plain memory in canonical form: the model's instance of the bus (entry 3). -/
def Obligations.BusReadAfterWrite : Prop :=
  ∀ (s : State) (a b : Word) (v : Byte), s.mem.wf = true → s.hostAnswers a = false → s.hostAnswers b = false →
    ((s.busWrite a v).busRead b).1 = if b = a then v else (s.busRead b).1

/-! ### Invariants -/

/-- Memory stays canonical, bit 5 of P stays stored as 1 and the phase stays legal over every step. -/
def Obligations.StepKeepsWellFormed : Prop :=
  ∀ s t : State, s.wellFormed = true → step s = .next t → t.wellFormed = true

/-- The same over every cycle of the arbiter. -/
def Obligations.CycleKeepsWellFormed : Prop :=
  ∀ s t : State, s.wellFormed = true → cycle s = .next t → t.wellFormed = true

/-- A well-formed state never stops: a step and a cycle answer a next state, and the step ends at an instruction boundary
or halted (42_compiler.md R196, 45_arbiter.md R249). -/
def Obligations.WellFormedStatesNeverStop : Prop :=
  ∀ s : State, s.wellFormed = true →
    (∃ t, step s = .next t ∧ ¬ inExec t) ∧ ∃ t, cycle s = .next t

/-- Every state a host can bring the block to, by power-up with any registers, cycles, register writes between instructions
and hard resets, is well-formed (45_arbiter.md R250). -/
def Obligations.ReachableStatesAreWellFormed : Prop := ∀ s : State, Reachable s → s.wellFormed = true

/-- 10_state.md R42: before the first opcode fetch the phase is Fetch and P has bit 5 set, whatever registers the host
wrote; the model's own reset state (registers zero: entry 2; memory unlisted: entries 1 and 3) is one such state, and it is
well-formed. -/
def Obligations.PowerUpIsWellFormedInFetch : Prop :=
  (∀ (r : RegFile) (m : Memory) (g : List Region), m.wf = true →
    let s := powerUp r m g
    s.phase = .fetch ∧ s.regs = { r with p := r.p ||| 0x20 } ∧ s.history = [] ∧ s.wellFormed = true) ∧
  State.reset = powerUp { a := 0, x := 0, y := 0, s := 0, pc := 0, p := 0 } [] [] ∧ State.reset.wellFormed = true
end

