-- ==== Sys2Proof/Laws/State.lean ====
section
/-! SUPPORT. One lemma per field per update of the state and of the Register File, each by rfl. -/

namespace Sys2Proof.Machine

@[simp] theorem State.setRegs_regs (r : RegFile) (s : State) : (s.setRegs r).regs = r := rfl

@[simp] theorem State.setRegs_phase (r : RegFile) (s : State) : (s.setRegs r).phase = s.phase := rfl

@[simp] theorem State.setRegs_mem (r : RegFile) (s : State) : (s.setRegs r).mem = s.mem := rfl

@[simp] theorem State.setRegs_hostRegions (r : RegFile) (s : State) : (s.setRegs r).hostRegions = s.hostRegions := rfl

@[simp] theorem State.setRegs_history (r : RegFile) (s : State) : (s.setRegs r).history = s.history := rfl

@[simp] theorem State.setPhase_regs (ph : Phase) (s : State) : (s.setPhase ph).regs = s.regs := rfl

@[simp] theorem State.setPhase_phase (ph : Phase) (s : State) : (s.setPhase ph).phase = ph := rfl

@[simp] theorem State.setPhase_mem (ph : Phase) (s : State) : (s.setPhase ph).mem = s.mem := rfl

@[simp] theorem State.setPhase_hostRegions (ph : Phase) (s : State) : (s.setPhase ph).hostRegions = s.hostRegions := rfl

@[simp] theorem State.setPhase_history (ph : Phase) (s : State) : (s.setPhase ph).history = s.history := rfl

@[simp] theorem State.setMem_regs (m : Memory) (s : State) : (s.setMem m).regs = s.regs := rfl

@[simp] theorem State.setMem_phase (m : Memory) (s : State) : (s.setMem m).phase = s.phase := rfl

@[simp] theorem State.setMem_mem (m : Memory) (s : State) : (s.setMem m).mem = m := rfl

@[simp] theorem State.setMem_hostRegions (m : Memory) (s : State) : (s.setMem m).hostRegions = s.hostRegions := rfl

@[simp] theorem State.setMem_history (m : Memory) (s : State) : (s.setMem m).history = s.history := rfl

@[simp] theorem State.record_regs (acc : BusAccess) (s : State) : (s.record acc).regs = s.regs := rfl

@[simp] theorem State.record_phase (acc : BusAccess) (s : State) : (s.record acc).phase = s.phase := rfl

@[simp] theorem State.record_mem (acc : BusAccess) (s : State) : (s.record acc).mem = s.mem := rfl

@[simp] theorem State.record_hostRegions (acc : BusAccess) (s : State) : (s.record acc).hostRegions = s.hostRegions := rfl

@[simp] theorem State.record_history (acc : BusAccess) (s : State) : (s.record acc).history = acc :: s.history := rfl

@[simp] theorem State.mapRegs_regs (f : RegFile → RegFile) (s : State) : (s.mapRegs f).regs = f s.regs := rfl

@[simp] theorem State.mapRegs_phase (f : RegFile → RegFile) (s : State) : (s.mapRegs f).phase = s.phase := rfl

@[simp] theorem State.mapRegs_mem (f : RegFile → RegFile) (s : State) : (s.mapRegs f).mem = s.mem := rfl

@[simp] theorem State.mapRegs_hostRegions (f : RegFile → RegFile) (s : State) : (s.mapRegs f).hostRegions = s.hostRegions := rfl

@[simp] theorem State.mapRegs_history (f : RegFile → RegFile) (s : State) : (s.mapRegs f).history = s.history := rfl

@[simp] theorem RegFile.setA_a (v : Byte) (r : RegFile) : (r.setA v).a = v := rfl

@[simp] theorem RegFile.setA_x (v : Byte) (r : RegFile) : (r.setA v).x = r.x := rfl

@[simp] theorem RegFile.setA_y (v : Byte) (r : RegFile) : (r.setA v).y = r.y := rfl

@[simp] theorem RegFile.setA_s (v : Byte) (r : RegFile) : (r.setA v).s = r.s := rfl

@[simp] theorem RegFile.setA_pc (v : Byte) (r : RegFile) : (r.setA v).pc = r.pc := rfl

@[simp] theorem RegFile.setA_p (v : Byte) (r : RegFile) : (r.setA v).p = r.p := rfl

@[simp] theorem RegFile.setA_flag (v : Byte) (r : RegFile) (f : Flag) : (r.setA v).flag f = r.flag f := rfl

@[simp] theorem RegFile.setA_readP (v : Byte) (r : RegFile) : (r.setA v).readP = r.readP := rfl

@[simp] theorem RegFile.setX_a (v : Byte) (r : RegFile) : (r.setX v).a = r.a := rfl

@[simp] theorem RegFile.setX_x (v : Byte) (r : RegFile) : (r.setX v).x = v := rfl

@[simp] theorem RegFile.setX_y (v : Byte) (r : RegFile) : (r.setX v).y = r.y := rfl

@[simp] theorem RegFile.setX_s (v : Byte) (r : RegFile) : (r.setX v).s = r.s := rfl

@[simp] theorem RegFile.setX_pc (v : Byte) (r : RegFile) : (r.setX v).pc = r.pc := rfl

@[simp] theorem RegFile.setX_p (v : Byte) (r : RegFile) : (r.setX v).p = r.p := rfl

@[simp] theorem RegFile.setX_flag (v : Byte) (r : RegFile) (f : Flag) : (r.setX v).flag f = r.flag f := rfl

@[simp] theorem RegFile.setX_readP (v : Byte) (r : RegFile) : (r.setX v).readP = r.readP := rfl

@[simp] theorem RegFile.setY_a (v : Byte) (r : RegFile) : (r.setY v).a = r.a := rfl

@[simp] theorem RegFile.setY_x (v : Byte) (r : RegFile) : (r.setY v).x = r.x := rfl

@[simp] theorem RegFile.setY_y (v : Byte) (r : RegFile) : (r.setY v).y = v := rfl

@[simp] theorem RegFile.setY_s (v : Byte) (r : RegFile) : (r.setY v).s = r.s := rfl

@[simp] theorem RegFile.setY_pc (v : Byte) (r : RegFile) : (r.setY v).pc = r.pc := rfl

@[simp] theorem RegFile.setY_p (v : Byte) (r : RegFile) : (r.setY v).p = r.p := rfl

@[simp] theorem RegFile.setY_flag (v : Byte) (r : RegFile) (f : Flag) : (r.setY v).flag f = r.flag f := rfl

@[simp] theorem RegFile.setY_readP (v : Byte) (r : RegFile) : (r.setY v).readP = r.readP := rfl

@[simp] theorem RegFile.setS_a (v : Byte) (r : RegFile) : (r.setS v).a = r.a := rfl

@[simp] theorem RegFile.setS_x (v : Byte) (r : RegFile) : (r.setS v).x = r.x := rfl

@[simp] theorem RegFile.setS_y (v : Byte) (r : RegFile) : (r.setS v).y = r.y := rfl

@[simp] theorem RegFile.setS_s (v : Byte) (r : RegFile) : (r.setS v).s = v := rfl

@[simp] theorem RegFile.setS_pc (v : Byte) (r : RegFile) : (r.setS v).pc = r.pc := rfl

@[simp] theorem RegFile.setS_p (v : Byte) (r : RegFile) : (r.setS v).p = r.p := rfl

@[simp] theorem RegFile.setS_flag (v : Byte) (r : RegFile) (f : Flag) : (r.setS v).flag f = r.flag f := rfl

@[simp] theorem RegFile.setS_readP (v : Byte) (r : RegFile) : (r.setS v).readP = r.readP := rfl

@[simp] theorem RegFile.setPc_a (v : Word) (r : RegFile) : (r.setPc v).a = r.a := rfl

@[simp] theorem RegFile.setPc_x (v : Word) (r : RegFile) : (r.setPc v).x = r.x := rfl

@[simp] theorem RegFile.setPc_y (v : Word) (r : RegFile) : (r.setPc v).y = r.y := rfl

@[simp] theorem RegFile.setPc_s (v : Word) (r : RegFile) : (r.setPc v).s = r.s := rfl

@[simp] theorem RegFile.setPc_pc (v : Word) (r : RegFile) : (r.setPc v).pc = v := rfl

@[simp] theorem RegFile.setPc_p (v : Word) (r : RegFile) : (r.setPc v).p = r.p := rfl

@[simp] theorem RegFile.setPc_flag (v : Word) (r : RegFile) (f : Flag) : (r.setPc v).flag f = r.flag f := rfl

@[simp] theorem RegFile.setPc_readP (v : Word) (r : RegFile) : (r.setPc v).readP = r.readP := rfl

@[simp] theorem RegFile.incPc_a (r : RegFile) : r.incPc.a = r.a := rfl

@[simp] theorem RegFile.incPc_x (r : RegFile) : r.incPc.x = r.x := rfl

@[simp] theorem RegFile.incPc_y (r : RegFile) : r.incPc.y = r.y := rfl

@[simp] theorem RegFile.incPc_s (r : RegFile) : r.incPc.s = r.s := rfl

@[simp] theorem RegFile.incPc_pc (r : RegFile) : r.incPc.pc = r.pc + 1 := rfl

@[simp] theorem RegFile.incPc_p (r : RegFile) : r.incPc.p = r.p := rfl

@[simp] theorem RegFile.incPc_flag (r : RegFile) (f : Flag) : r.incPc.flag f = r.flag f := rfl

@[simp] theorem RegFile.incPc_readP (r : RegFile) : r.incPc.readP = r.readP := rfl

@[simp] theorem RegFile.writeP_a (v : Byte) (r : RegFile) : (r.writeP v).a = r.a := rfl

@[simp] theorem RegFile.setFlag_a (g : Flag) (b : Bool) (r : RegFile) : (r.setFlag g b).a = r.a := rfl

@[simp] theorem RegFile.setNZ_a (v : Byte) (r : RegFile) : (r.setNZ v).a = r.a := rfl

@[simp] theorem RegFile.pullP_a (d : Byte) (r : RegFile) : (r.pullP d).a = r.a := rfl

@[simp] theorem RegFile.compare_a (u m : Byte) (r : RegFile) : (r.compare u m).a = r.a := rfl

@[simp] theorem RegFile.putResult_a (q : AluResult) (r : RegFile) : (r.putResult q).a = q.r := rfl

@[simp] theorem RegFile.writeP_x (v : Byte) (r : RegFile) : (r.writeP v).x = r.x := rfl

@[simp] theorem RegFile.setFlag_x (g : Flag) (b : Bool) (r : RegFile) : (r.setFlag g b).x = r.x := rfl

@[simp] theorem RegFile.setNZ_x (v : Byte) (r : RegFile) : (r.setNZ v).x = r.x := rfl

@[simp] theorem RegFile.pullP_x (d : Byte) (r : RegFile) : (r.pullP d).x = r.x := rfl

@[simp] theorem RegFile.compare_x (u m : Byte) (r : RegFile) : (r.compare u m).x = r.x := rfl

@[simp] theorem RegFile.putResult_x (q : AluResult) (r : RegFile) : (r.putResult q).x = r.x := rfl

@[simp] theorem RegFile.writeP_y (v : Byte) (r : RegFile) : (r.writeP v).y = r.y := rfl

@[simp] theorem RegFile.setFlag_y (g : Flag) (b : Bool) (r : RegFile) : (r.setFlag g b).y = r.y := rfl

@[simp] theorem RegFile.setNZ_y (v : Byte) (r : RegFile) : (r.setNZ v).y = r.y := rfl

@[simp] theorem RegFile.pullP_y (d : Byte) (r : RegFile) : (r.pullP d).y = r.y := rfl

@[simp] theorem RegFile.compare_y (u m : Byte) (r : RegFile) : (r.compare u m).y = r.y := rfl

@[simp] theorem RegFile.putResult_y (q : AluResult) (r : RegFile) : (r.putResult q).y = r.y := rfl

@[simp] theorem RegFile.writeP_s (v : Byte) (r : RegFile) : (r.writeP v).s = r.s := rfl

@[simp] theorem RegFile.setFlag_s (g : Flag) (b : Bool) (r : RegFile) : (r.setFlag g b).s = r.s := rfl

@[simp] theorem RegFile.setNZ_s (v : Byte) (r : RegFile) : (r.setNZ v).s = r.s := rfl

@[simp] theorem RegFile.pullP_s (d : Byte) (r : RegFile) : (r.pullP d).s = r.s := rfl

@[simp] theorem RegFile.compare_s (u m : Byte) (r : RegFile) : (r.compare u m).s = r.s := rfl

@[simp] theorem RegFile.putResult_s (q : AluResult) (r : RegFile) : (r.putResult q).s = r.s := rfl

@[simp] theorem RegFile.writeP_pc (v : Byte) (r : RegFile) : (r.writeP v).pc = r.pc := rfl

@[simp] theorem RegFile.setFlag_pc (g : Flag) (b : Bool) (r : RegFile) : (r.setFlag g b).pc = r.pc := rfl

@[simp] theorem RegFile.setNZ_pc (v : Byte) (r : RegFile) : (r.setNZ v).pc = r.pc := rfl

@[simp] theorem RegFile.pullP_pc (d : Byte) (r : RegFile) : (r.pullP d).pc = r.pc := rfl

@[simp] theorem RegFile.compare_pc (u m : Byte) (r : RegFile) : (r.compare u m).pc = r.pc := rfl

@[simp] theorem RegFile.putResult_pc (q : AluResult) (r : RegFile) : (r.putResult q).pc = r.pc := rfl

end Sys2Proof.Machine
end

