-- ==== Sys2Proof/Laws/Flags.lean ====
section
/-! SUPPORT. What reading a flag gives after each way of writing P (10_state.md R26; 40_operations.md R100). -/

namespace Sys2Proof.Machine

/-- Bit 5 of P reads 1 in every Register File (R26). -/
@[simp] theorem RegFile.flag_u (r : RegFile) : r.flag .u = true := by
  simp [RegFile.flag, RegFile.readP, Flag.bit]

/-- Every write of P is read back with bit 5 set (R26). -/
@[simp] theorem RegFile.writeP_readP (v : Byte) (r : RegFile) : (r.writeP v).readP = v ||| 0x20 := by
  simp only [RegFile.readP, RegFile.writeP, BitVec.or_assoc]
  rfl

theorem RegFile.writeP_flag (v : Byte) (r : RegFile) (f : Flag) :
    (r.writeP v).flag f = (v.getLsbD f.bit || decide (f = .u)) := by
  cases f <;> simp [RegFile.flag, Flag.bit]

theorem putBit_getLsbD (k : Nat) (hk : k < 8) (b : Bool) (v : Byte) (j : Nat) (hj : j < 8) :
    (putBit k b v).getLsbD j = if j = k then b else v.getLsbD j := by
  have hone : ∀ k : Fin 8, ∀ j : Fin 8, (1#8 <<< k.val).getLsbD j.val = decide (j.val = k.val) := by decide
  have h1 := hone ⟨k, hk⟩ ⟨j, hj⟩
  simp only at h1
  unfold putBit
  cases b
  · simp only [Bool.false_eq_true, if_false, BitVec.getLsbD_and, BitVec.getLsbD_not, h1, hj, decide_true, Bool.true_and]
    by_cases e : j = k <;> simp [e]
  · simp only [if_true, BitVec.getLsbD_or, h1]
    by_cases e : j = k <;> simp [e]

/-- Writing one flag changes that flag and no other; bit 5 stays 1. -/
theorem RegFile.setFlag_flag (g : Flag) (b : Bool) (r : RegFile) (f : Flag) :
    (r.setFlag g b).flag f = if f = .u then true else if f = g then b else r.flag f := by
  have hb : ∀ f : Flag, f.bit < 8 := by intro f; cases f <;> decide
  have hinj : f.bit = g.bit ↔ f = g := by cases f <;> cases g <;> simp [Flag.bit]
  rw [RegFile.setFlag, RegFile.writeP_flag, putBit_getLsbD _ (hb g) _ _ _ (hb f)]
  by_cases hu : f = .u
  · simp [hu]
  · by_cases hg : f = g
    · simp [hg, show g ≠ .u from hg ▸ hu]
    · simp [hu, hg, hinj, RegFile.flag]

theorem RegFile.setNZ_flag (v : Byte) (r : RegFile) (f : Flag) :
    (r.setNZ v).flag f = if f = .z then v == 0 else if f = .n then v.getLsbD 7 else r.flag f := by
  rw [RegFile.setNZ, RegFile.setFlag_flag, RegFile.setFlag_flag]
  cases f <;> simp

theorem RegFile.putResult_flag (q : AluResult) (r : RegFile) (f : Flag) :
    (r.putResult q).flag f =
      if f = .c then q.c else if f = .z then q.z else if f = .v then q.v else if f = .n then q.n else r.flag f := by
  rw [RegFile.putResult, RegFile.setFlag_flag, RegFile.setFlag_flag, RegFile.setFlag_flag, RegFile.setFlag_flag]
  cases f <;> simp

theorem RegFile.compare_flag (u m : Byte) (r : RegFile) (f : Flag) :
    (r.compare u m).flag f =
      if f = .z then u - m == 0 else if f = .n then (u - m).getLsbD 7
      else if f = .c then decide (m.toNat ≤ u.toNat) else r.flag f := by
  rw [RegFile.compare, RegFile.setNZ_flag, RegFile.setFlag_flag]
  cases f <;> simp

theorem RegFile.pullP_flag (d : Byte) (r : RegFile) (f : Flag) :
    (r.pullP d).flag f = if f = .u then true else if f = .b then false else d.getLsbD f.bit := by
  rw [RegFile.pullP, RegFile.writeP_flag]
  cases f <;> simp [Flag.bit]

theorem RegFile.pushedP_getLsbD (r : RegFile) (f : Flag) :
    r.pushedP.getLsbD f.bit = if f = .b then true else r.flag f := by
  cases f <;> simp [RegFile.pushedP, RegFile.flag, RegFile.readP, Flag.bit]

/-- Bit 5 of P is stored as 1 by every write (R26). -/
theorem RegFile.writeP_bit5 (v : Byte) (r : RegFile) : (r.writeP v).p.getLsbD 5 = true := by
  simp [RegFile.writeP]

theorem RegFile.setFlag_bit5 (g : Flag) (b : Bool) (r : RegFile) : (r.setFlag g b).p.getLsbD 5 = true :=
  RegFile.writeP_bit5 _ _

end Sys2Proof.Machine
end

