-- ==== Sys2Proof/Laws/Alu.lean ====
section
/-! SUPPORT. What each operation function writes, once: the registers it names and P, every other register unchanged
(40_operations.md R101 to R140, 43_handbuilt.md R216, R217). -/

namespace Sys2Proof.Machine

theorem opLda_eq (m : Byte) (r : RegFile) : opLda m r = { r with a := m, p := (r.setNZ m).p } := rfl
theorem opLdx_eq (m : Byte) (r : RegFile) : opLdx m r = { r with x := m, p := (r.setNZ m).p } := rfl
theorem opLdy_eq (m : Byte) (r : RegFile) : opLdy m r = { r with y := m, p := (r.setNZ m).p } := rfl
theorem opAnd_eq (m : Byte) (r : RegFile) :
    opAnd m r = { r with a := r.a &&& m, p := (r.setNZ (r.a &&& m)).p } := rfl
theorem opOra_eq (m : Byte) (r : RegFile) :
    opOra m r = { r with a := r.a ||| m, p := (r.setNZ (r.a ||| m)).p } := rfl
theorem opEor_eq (m : Byte) (r : RegFile) :
    opEor m r = { r with a := r.a ^^^ m, p := (r.setNZ (r.a ^^^ m)).p } := rfl
theorem opAdc_eq (m : Byte) (r : RegFile) :
    opAdc m r = { r with a := (adcResult (r.flag .d) r.a m (r.flag .c)).r, p := (r.putResult (adcResult (r.flag .d) r.a m (r.flag .c))).p } := rfl
theorem opSbc_eq (m : Byte) (r : RegFile) :
    opSbc m r = { r with a := (sbcResult (r.flag .d) r.a m (r.flag .c)).r, p := (r.putResult (sbcResult (r.flag .d) r.a m (r.flag .c))).p } := rfl
theorem opCmp_eq (m : Byte) (r : RegFile) : opCmp m r = { r with p := (r.compare r.a m).p } := rfl
theorem opCpx_eq (m : Byte) (r : RegFile) : opCpx m r = { r with p := (r.compare r.x m).p } := rfl
theorem opCpy_eq (m : Byte) (r : RegFile) : opCpy m r = { r with p := (r.compare r.y m).p } := rfl
theorem opBit_eq (m : Byte) (r : RegFile) : opBit m r = { r with p := (opBit m r).p } := rfl
theorem opAsl_snd (m : Byte) (r : RegFile) : (opAsl m r).2 = { r with p := (opAsl m r).2.p } := rfl
theorem opLsr_snd (m : Byte) (r : RegFile) : (opLsr m r).2 = { r with p := (opLsr m r).2.p } := rfl
theorem opRol_snd (m : Byte) (r : RegFile) : (opRol m r).2 = { r with p := (opRol m r).2.p } := rfl
theorem opRor_snd (m : Byte) (r : RegFile) : (opRor m r).2 = { r with p := (opRor m r).2.p } := rfl
theorem opInc_snd (m : Byte) (r : RegFile) : (opInc m r).2 = { r with p := (opInc m r).2.p } := rfl
theorem opDec_snd (m : Byte) (r : RegFile) : (opDec m r).2 = { r with p := (opDec m r).2.p } := rfl
theorem onAccumulator_opAsl (r : RegFile) :
    onAccumulator opAsl r = { r with a := (opAsl r.a r).1, p := (opAsl r.a r).2.p } := rfl
theorem onAccumulator_opLsr (r : RegFile) :
    onAccumulator opLsr r = { r with a := (opLsr r.a r).1, p := (opLsr r.a r).2.p } := rfl
theorem onAccumulator_opRol (r : RegFile) :
    onAccumulator opRol r = { r with a := (opRol r.a r).1, p := (opRol r.a r).2.p } := rfl
theorem onAccumulator_opRor (r : RegFile) :
    onAccumulator opRor r = { r with a := (opRor r.a r).1, p := (opRor r.a r).2.p } := rfl
theorem opInx_eq (r : RegFile) : opInx r = { r with x := r.x + 1, p := (r.setNZ (r.x + 1)).p } := rfl
theorem opIny_eq (r : RegFile) : opIny r = { r with y := r.y + 1, p := (r.setNZ (r.y + 1)).p } := rfl
theorem opDex_eq (r : RegFile) : opDex r = { r with x := r.x - 1, p := (r.setNZ (r.x - 1)).p } := rfl
theorem opDey_eq (r : RegFile) : opDey r = { r with y := r.y - 1, p := (r.setNZ (r.y - 1)).p } := rfl
theorem opTax_eq (r : RegFile) : opTax r = { r with x := r.a, p := (r.setNZ r.a).p } := rfl
theorem opTay_eq (r : RegFile) : opTay r = { r with y := r.a, p := (r.setNZ r.a).p } := rfl
theorem opTxa_eq (r : RegFile) : opTxa r = { r with a := r.x, p := (r.setNZ r.x).p } := rfl
theorem opTya_eq (r : RegFile) : opTya r = { r with a := r.y, p := (r.setNZ r.y).p } := rfl
theorem opTsx_eq (r : RegFile) : opTsx r = { r with x := r.s, p := (r.setNZ r.s).p } := rfl
theorem opTxs_eq (r : RegFile) : opTxs r = { r with s := r.x } := rfl
theorem opClc_eq (r : RegFile) : opClc r = { r with p := (r.setFlag .c false).p } := rfl
theorem opSec_eq (r : RegFile) : opSec r = { r with p := (r.setFlag .c true).p } := rfl
theorem opCli_eq (r : RegFile) : opCli r = { r with p := (r.setFlag .i false).p } := rfl
theorem opSei_eq (r : RegFile) : opSei r = { r with p := (r.setFlag .i true).p } := rfl
theorem opClv_eq (r : RegFile) : opClv r = { r with p := (r.setFlag .v false).p } := rfl
theorem opCld_eq (r : RegFile) : opCld r = { r with p := (r.setFlag .d false).p } := rfl
theorem opSed_eq (r : RegFile) : opSed r = { r with p := (r.setFlag .d true).p } := rfl
theorem opNop_eq (r : RegFile) : opNop r = r := rfl
theorem opPla_eq (d : Byte) (r : RegFile) : opPla d r = { r with a := d, p := (r.setNZ d).p } := rfl
theorem opPlp_eq (d : Byte) (r : RegFile) : opPlp d r = { r with p := (r.pullP d).p } := rfl

end Sys2Proof.Machine
end

