-- ==== Sys2Proof/Laws/Bits.lean ====
section
/-! SUPPORT. The byte-order helpers undo one another. -/

namespace Sys2Proof

theorem cat_getLsbD (h l : Byte) (i : Nat) :
    (cat h l).getLsbD i = if i < 8 then l.getLsbD i else h.getLsbD (i - 8) := by
  have e : (cat h l).getLsbD i = (h ++ l : BitVec (8 + 8)).getLsbD i := rfl
  rw [e, BitVec.getLsbD_append]

theorem lo_getLsbD (w : Word) (i : Nat) : (lo w).getLsbD i = (decide (i < 8) && w.getLsbD i) := by
  simp [lo, BitVec.getLsbD_extractLsb']

theorem hi_getLsbD (w : Word) (i : Nat) : (hi w).getLsbD i = (decide (i < 8) && w.getLsbD (8 + i)) := by
  simp [hi, BitVec.getLsbD_extractLsb']

@[simp] theorem lo_cat (h l : Byte) : lo (cat h l) = l := by
  apply BitVec.eq_of_getLsbD_eq
  intro i hi'
  rw [lo_getLsbD, cat_getLsbD]
  simp [hi']

@[simp] theorem hi_cat (h l : Byte) : hi (cat h l) = h := by
  apply BitVec.eq_of_getLsbD_eq
  intro i hi'
  rw [hi_getLsbD, cat_getLsbD]
  simp [hi']

@[simp] theorem cat_hi_lo (w : Word) : cat (hi w) (lo w) = w := by
  apply BitVec.eq_of_getLsbD_eq
  intro i hi'
  rw [cat_getLsbD, lo_getLsbD, hi_getLsbD]
  split
  · simp [*]
  · simp [show i - 8 < 8 by omega, show 8 + (i - 8) = i by omega]

theorem zext16_eq_cat (b : Byte) : zext16 b = cat 0 b := by
  apply BitVec.eq_of_getLsbD_eq
  intro i hi'
  rw [cat_getLsbD, zext16, BitVec.getLsbD_setWidth]
  split
  · simp [hi']
  · simp [BitVec.getLsbD_of_ge b i (by omega)]

@[simp] theorem hi_zext16 (b : Byte) : hi (zext16 b) = 0 := by rw [zext16_eq_cat, hi_cat]

@[simp] theorem lo_zext16 (b : Byte) : lo (zext16 b) = b := by rw [zext16_eq_cat, lo_cat]

theorem cat_inj {h l h' l' : Byte} (e : cat h l = cat h' l') : h = h' ∧ l = l' :=
  ⟨by simpa using congrArg hi e, by simpa using congrArg lo e⟩

end Sys2Proof
end

