-- ==== Sys2Proof/Laws/Decode.lean ====
section
/-! SUPPORT. The parts of the decoder and the encoder: what the table, `takeOperand` and `assemble` answer for an
instruction's opcode, operand bytes and operation. -/

namespace Sys2Proof

set_option maxRecDepth 8000 in
/-- The table's entry of an instruction's opcode is the instruction's entry (30_encoding.md R72). -/
theorem entryOf_opcode (i : Instr) : entryOf i.opcode = some i.entry := by
  cases i <;> rfl

/-- An instruction is assembled from its operation and its operand form. -/
theorem assemble_op_operand (i : Instr) : assemble i.op i.operand = some i := by
  cases i <;> rfl

/-- The operand bytes of an operand form are read back as it, and the rest of the stream is left (R71). -/
theorem takeOperand_bytes (op : Op) (o : Operand) (h : o.padFits op = true) (rest : List Byte) :
    takeOperand ⟨op, o.mode⟩ (o.bytes ++ rest) = some (o, rest) := by
  cases o with
  | imp => cases op <;> first | rfl | exact absurd h (by decide)
  | pad b => cases op <;> first | rfl | exact absurd h (by simp [Operand.padFits])
  | acc => rfl
  | imm v => rfl
  | rel off => rfl
  | mem m => cases m <;> simp [Operand.mode, MemOperand.mode, Operand.bytes, MemOperand.bytes, takeOperand]

end Sys2Proof
end

