-- ==== Sys2Proof/Laws/Dispatch.lean ====
section
/-! SUPPORT. The meaning of every instruction through its composition: `exec` of an instruction is one shape, with the
operation function the Compiler dispatches to (42_compiler.md R191). A proof over all instructions splits the 12 compositions
and 56 operations instead of the 151 arms. -/

namespace Sys2Proof.Machine

/-- A composition run from the opcode fetch to Done, on an operand form. -/
def runComposition (c : Composition) (o : Operand) (s : State) : Result :=
  match c with
  | .read f =>
    match o with
    | .imm v => readImmediate f v s
    | .mem m => readMemory f m s
    | _ => .next s
  | .write source =>
    match o with
    | .mem m => storeMemory source m s
    | _ => .next s
  | .rmw f =>
    match o with
    | .mem m => modifyMemory f m s
    | _ => .next s
  | .implied f => implied f s
  | .jump =>
    match o with
    | .mem m => jump m s
    | _ => .next s
  | .jsr =>
    match o with
    | .mem (.abs a) => jumpSubroutine a s
    | _ => .next s
  | .rts => returnSubroutine s
  | .rti => returnInterrupt s
  | .brk =>
    match o with
    | .pad b => breakInstruction b s
    | _ => .next s
  | .push source => pushRegister source s
  | .pull f => pullRegister f s
  | .branch cond =>
    match o with
    | .rel off => branch cond off s
    | _ => .next s

/-- The meaning of an instruction is its composition, run on its operand form. -/
theorem exec_eq_runComposition (i : Instr) (s : State) :
    exec i s = runComposition (compositionOf i.entry) i.operand s := by
  cases i <;> rfl

end Sys2Proof.Machine
end

