-- ==== Sys2Proof/Laws/Memory.lean ====
section
/-! SUPPORT. Plain memory: a read after a write, and the canonical form kept by every write. -/

namespace Sys2Proof.Machine

theorem Memory.wfFrom_mono {i j : Nat} (h : i ≤ j) : ∀ {m : Memory}, Memory.wfFrom j m = true → Memory.wfFrom i m = true
  | [], _ => rfl
  | (k, b) :: rest, hw => by
    simp only [Memory.wfFrom, Bool.and_eq_true, decide_eq_true_eq] at hw ⊢
    exact ⟨⟨⟨by omega, hw.1.1.2⟩, hw.1.2⟩, hw.2⟩

/-- Below the first listed address every read gives the unlisted byte. -/
theorem Memory.read_of_wfFrom {j : Nat} : ∀ {m : Memory}, Memory.wfFrom j m = true → ∀ {a : Nat}, a < j →
    m.read a = unlistedByte
  | [], _, _, _ => rfl
  | (k, b) :: rest, hw, a, ha => by
    simp only [Memory.wfFrom, Bool.and_eq_true, decide_eq_true_eq] at hw
    have hk : a ≠ k := by omega
    simp only [Memory.read, hk, if_false]
    exact Memory.read_of_wfFrom hw.2 (by omega)

/-- A byte written is read back, in any memory whose form is canonical. -/
theorem Memory.read_write_same {j : Nat} : ∀ {m : Memory}, Memory.wfFrom j m = true → ∀ (a : Nat) (v : Byte),
    (m.write a v).read a = v
  | [], _, a, v => by
    simp only [Memory.write]
    split <;> simp_all [Memory.read]
  | (k, b) :: rest, hw, a, v => by
    simp only [Memory.wfFrom, Bool.and_eq_true, decide_eq_true_eq] at hw
    simp only [Memory.write]
    split
    · rename_i hlt
      split
      · rename_i hv
        simp only [Memory.read, show a ≠ k by omega, if_false, hv]
        exact Memory.read_of_wfFrom hw.2 (by omega)
      · simp [Memory.read]
    · split
      · rename_i hak
        subst hak
        split
        · rename_i hv
          rw [hv]
          exact Memory.read_of_wfFrom hw.2 (by omega)
        · simp [Memory.read]
      · rename_i hak
        simp only [Memory.read, hak, if_false]
        exact Memory.read_write_same hw.2 a v

/-- A write leaves every other byte alone, whatever the memory's form. -/
theorem Memory.read_write_ne {a c : Nat} (v : Byte) (h : c ≠ a) : ∀ (m : Memory), (m.write a v).read c = m.read c
  | [] => by
    simp only [Memory.write]
    split <;> simp [Memory.read, h]
  | (k, b) :: rest => by
    simp only [Memory.write]
    split
    · split
      · rfl
      · simp [Memory.read, h]
    · split
      · rename_i hak
        subst hak
        split <;> simp [Memory.read, h]
      · simp only [Memory.read]
        rw [Memory.read_write_ne v h rest]

theorem Memory.write_wfFrom {j : Nat} : ∀ {m : Memory}, Memory.wfFrom j m = true → ∀ {a : Nat}, j ≤ a →
    a < addressSpace → ∀ (v : Byte), Memory.wfFrom j (m.write a v) = true
  | [], _, a, hj, ha, v => by
    simp only [Memory.write]
    split
    · rfl
    · rename_i hv
      simp [Memory.wfFrom, hj, ha, hv]
  | (k, b) :: rest, hw, a, hj, ha, v => by
    have hw' := hw
    simp only [Memory.wfFrom, Bool.and_eq_true, decide_eq_true_eq] at hw
    simp only [Memory.write]
    split
    · rename_i hlt
      split
      · exact hw'
      · rename_i hv
        simp only [Memory.wfFrom, Bool.and_eq_true, decide_eq_true_eq, bne_iff_ne, ne_eq]
        exact ⟨⟨⟨hj, ha⟩, hv⟩, ⟨⟨⟨by omega, hw.1.1.2⟩, by simpa using hw.1.2⟩, hw.2⟩⟩
    · split
      · rename_i hak
        subst hak
        split
        · exact Memory.wfFrom_mono (by omega) hw.2
        · rename_i hv
          simp only [Memory.wfFrom, Bool.and_eq_true, decide_eq_true_eq, bne_iff_ne, ne_eq]
          exact ⟨⟨⟨hj, ha⟩, hv⟩, hw.2⟩
      · simp only [Memory.wfFrom, Bool.and_eq_true, decide_eq_true_eq]
        exact ⟨hw.1, Memory.write_wfFrom hw.2 (by omega) ha v⟩

/-- Every write at an address of the space keeps the canonical form. -/
theorem Memory.write_wf {m : Memory} (h : m.wf = true) {a : Nat} (ha : a < addressSpace) (v : Byte) :
    (m.write a v).wf = true :=
  Memory.write_wfFrom h (Nat.zero_le a) ha v

/-- Two memories in canonical form that read the same everywhere from `j` on are the same list. -/
theorem Memory.eq_of_read {j : Nat} : ∀ {m n : Memory}, Memory.wfFrom j m = true → Memory.wfFrom j n = true →
    (∀ a, j ≤ a → m.read a = n.read a) → m = n
  | [], [], _, _, _ => rfl
  | [], (k, b) :: rest, _, hn, h => by
    simp only [Memory.wfFrom, Bool.and_eq_true, decide_eq_true_eq, bne_iff_ne, ne_eq] at hn
    have := h k hn.1.1.1
    simp [Memory.read] at this
    exact absurd this.symm hn.1.2
  | (k, b) :: rest, [], hm, _, h => by
    simp only [Memory.wfFrom, Bool.and_eq_true, decide_eq_true_eq, bne_iff_ne, ne_eq] at hm
    have := h k hm.1.1.1
    simp [Memory.read] at this
    exact absurd this hm.1.2
  | (k, b) :: rest, (k', b') :: rest', hm, hn, h => by
    simp only [Memory.wfFrom, Bool.and_eq_true, decide_eq_true_eq, bne_iff_ne, ne_eq] at hm hn
    have hk : k = k' := by
      rcases Nat.lt_trichotomy k k' with hlt | heq | hgt
      · have := h k hm.1.1.1
        simp only [Memory.read, if_true, show k ≠ k' by omega, if_false] at this
        rw [Memory.read_of_wfFrom hn.2 (by omega)] at this
        exact absurd this hm.1.2
      · exact heq
      · have := h k' hn.1.1.1
        simp only [Memory.read, if_true, show k' ≠ k by omega, if_false] at this
        rw [Memory.read_of_wfFrom hm.2 (by omega)] at this
        exact absurd this.symm hn.1.2
    subst hk
    have hb : b = b' := by
      have := h k hm.1.1.1
      simpa [Memory.read] using this
    subst hb
    have hr : rest = rest' := by
      refine Memory.eq_of_read hm.2 hn.2 fun a ha => ?_
      have := h a (by omega)
      simpa [Memory.read, show a ≠ k by omega] using this
    rw [hr]

end Sys2Proof.Machine
end

