-- ==== Sys2Proof/Laws/Ops.lean ====
section
/-! SUPPORT. What each bus operation, fetch cycle and stack operation can do, once. -/

namespace Sys2Proof.Machine

@[simp] theorem State.perform_regs (acc : BusAccess) (s : State) : (s.perform acc).regs = s.regs := by
  cases acc <;> simp only [State.perform, State.record_regs, State.store]
  split <;> rfl

@[simp] theorem State.perform_phase (acc : BusAccess) (s : State) : (s.perform acc).phase = s.phase := by
  cases acc <;> simp only [State.perform, State.record_phase, State.store]
  split <;> rfl

@[simp] theorem State.perform_hostRegions (acc : BusAccess) (s : State) :
    (s.perform acc).hostRegions = s.hostRegions := by
  cases acc <;> simp only [State.perform, State.record_hostRegions, State.store]
  split <;> rfl

/-- Every access is recorded, in order (R55). -/
@[simp] theorem State.perform_history (acc : BusAccess) (s : State) : (s.perform acc).history = acc :: s.history := by
  cases acc <;> simp only [State.perform, State.record_history, State.store]
  split <;> rfl

@[simp] theorem State.perform_fetch_mem (a : Word) (s : State) : (s.perform (.fetch a)).mem = s.mem := rfl

@[simp] theorem State.perform_read_mem (a : Word) (s : State) : (s.perform (.read a)).mem = s.mem := rfl

theorem State.perform_write_mem (a : Word) (v : Byte) (s : State) :
    (s.perform (.write a v)).mem = if s.hostAnswers a then s.mem else s.mem.write a.toNat v := by
  simp only [State.perform, State.record_mem, State.store]
  split <;> rfl

/-- Which addresses the host answers depends on `hostRegions` alone. -/
theorem State.hostAnswers_congr {s t : State} (h : t.hostRegions = s.hostRegions) (a : Word) :
    t.hostAnswers a = s.hostAnswers a := by
  simp [State.hostAnswers, h]

/-- On a bus that is all plain memory, the answer is the byte memory holds. -/
theorem State.answer_of_plain {s : State} (h : s.hostRegions = []) (a : Word) : s.answer a = s.mem.read a.toNat := by
  simp [State.answer, State.hostAnswers, h]

@[simp] theorem State.busRead_fst (a : Word) (s : State) : (s.busRead a).1 = s.answer a := rfl

@[simp] theorem State.busRead_snd (a : Word) (s : State) : (s.busRead a).2 = s.perform (.read a) := rfl

@[simp] theorem State.dummyRead_eq (a : Word) (s : State) : s.dummyRead a = s.perform (.read a) := rfl

@[simp] theorem State.busWrite_eq (a : Word) (v : Byte) (s : State) : s.busWrite a v = s.perform (.write a v) := rfl

/-- A byte other than the written one keeps its value. -/
theorem State.perform_mem_read_ne (acc : BusAccess) (s : State) (a : Nat)
    (h : ∀ w v, acc = .write w v → a ≠ w.toNat) : (s.perform acc).mem.read a = s.mem.read a := by
  cases acc with
  | fetch w => rfl
  | read w => rfl
  | write w v =>
    rw [State.perform_write_mem]
    split
    · rfl
    · exact Memory.read_write_ne v (h w v rfl) _

/-- A byte written in plain memory is read back (20_memory.md R50, D17). -/
theorem State.perform_write_read_same {s : State} (h : s.mem.wf = true) {w : Word} (hp : s.hostAnswers w = false) (v : Byte) :
    (s.perform (.write w v)).mem.read w.toNat = v := by
  rw [State.perform_write_mem, hp]
  exact Memory.read_write_same h _ _

/-- A write keeps every other byte. -/
theorem State.perform_write_read_ne (s : State) {w : Word} {a : Nat} (h : a ≠ w.toNat) (v : Byte) :
    (s.perform (.write w v)).mem.read a = s.mem.read a :=
  State.perform_mem_read_ne _ s a (by rintro w' v' ⟨⟩; exact h)

/-- An access keeps the canonical form of memory. -/
theorem State.perform_mem_wf (acc : BusAccess) (s : State) (h : s.mem.wf = true) : (s.perform acc).mem.wf = true := by
  cases acc with
  | fetch w => exact h
  | read w => exact h
  | write w v =>
    rw [State.perform_write_mem]
    split
    · exact h
    · exact Memory.write_wf h (by simpa [addressSpace] using w.isLt) v

/-- Placing bytes keeps the canonical form of memory. -/
theorem placeBytes_wf : ∀ (bytes : List Byte) (a : Word) {m : Memory}, m.wf = true → (placeBytes a bytes m).wf = true
  | [], _, _, h => h
  | b :: rest, a, _, h => placeBytes_wf rest (a + 1) (Memory.write_wf h (by simpa [addressSpace] using a.isLt) b)

@[simp] theorem State.opcodeFetch_regs (s : State) : s.opcodeFetch.regs = s.regs.incPc := rfl
@[simp] theorem State.opcodeFetch_phase (s : State) : s.opcodeFetch.phase = s.phase := rfl
@[simp] theorem State.opcodeFetch_mem (s : State) : s.opcodeFetch.mem = s.mem := rfl
@[simp] theorem State.opcodeFetch_hostRegions (s : State) : s.opcodeFetch.hostRegions = s.hostRegions := rfl
@[simp] theorem State.opcodeFetch_history (s : State) : s.opcodeFetch.history = .fetch s.regs.pc :: s.history := rfl

@[simp] theorem State.operandFetch_regs (s : State) : s.operandFetch.regs = s.regs.incPc := rfl
@[simp] theorem State.operandFetch_phase (s : State) : s.operandFetch.phase = s.phase := rfl
@[simp] theorem State.operandFetch_mem (s : State) : s.operandFetch.mem = s.mem := rfl
@[simp] theorem State.operandFetch_hostRegions (s : State) : s.operandFetch.hostRegions = s.hostRegions := rfl
@[simp] theorem State.operandFetch_history (s : State) : s.operandFetch.history = .read s.regs.pc :: s.history := rfl

@[simp] theorem State.push_regs (v : Byte) (s : State) : (s.push v).regs = s.regs.setS (s.regs.s - 1) := by
  simp [State.push]
@[simp] theorem State.push_phase (v : Byte) (s : State) : (s.push v).phase = s.phase := by simp [State.push]
@[simp] theorem State.push_hostRegions (v : Byte) (s : State) : (s.push v).hostRegions = s.hostRegions := by
  simp [State.push]
@[simp] theorem State.push_history (v : Byte) (s : State) :
    (s.push v).history = .write (stackAddress s.regs.s) v :: s.history := by simp [State.push]
theorem State.push_mem (v : Byte) (s : State) :
    (s.push v).mem = (s.perform (.write (stackAddress s.regs.s) v)).mem := rfl

/-- A push keeps the canonical form of memory. -/
theorem State.push_mem_wf (v : Byte) (s : State) (h : s.mem.wf = true) : (s.push v).mem.wf = true :=
  State.perform_mem_wf _ s h

@[simp] theorem State.pull_fst (s : State) : s.pull.1 = s.answer (stackAddress (s.regs.s + 1)) := rfl
@[simp] theorem State.pull_regs (s : State) : s.pull.2.regs = s.regs.setS (s.regs.s + 1) := rfl
@[simp] theorem State.pull_phase (s : State) : s.pull.2.phase = s.phase := rfl
@[simp] theorem State.pull_mem (s : State) : s.pull.2.mem = s.mem := rfl
@[simp] theorem State.pull_hostRegions (s : State) : s.pull.2.hostRegions = s.hostRegions := rfl
@[simp] theorem State.pull_history (s : State) :
    s.pull.2.history = .read (stackAddress (s.regs.s + 1)) :: s.history := rfl

end Sys2Proof.Machine
end

