-- ==== Sys2Proof/Laws/Operands.lean ====
section
/-! SUPPORT. What an addressing mode changes: PC and the history only (41_addressing.md R160). -/

namespace Sys2Proof.Machine

@[simp] theorem indexCycle_regs (wl : Bool) (b e : Word) (s : State) : (indexCycle wl b e s).regs = s.regs := by
  unfold indexCycle; split <;> simp
@[simp] theorem indexCycle_phase (wl : Bool) (b e : Word) (s : State) : (indexCycle wl b e s).phase = s.phase := by
  unfold indexCycle; split <;> simp
@[simp] theorem indexCycle_mem (wl : Bool) (b e : Word) (s : State) : (indexCycle wl b e s).mem = s.mem := by
  unfold indexCycle; split <;> simp
@[simp] theorem indexCycle_hostRegions (wl : Bool) (b e : Word) (s : State) :
    (indexCycle wl b e s).hostRegions = s.hostRegions := by
  unfold indexCycle; split <;> simp

theorem indexCycle_history (wl : Bool) (b e : Word) (s : State) :
    (indexCycle wl b e s).history =
      if crossed b e || wl then .read (unfixed b e) :: s.history else s.history := by
  unfold indexCycle; split <;> simp

@[simp] theorem resolve_mem (wl : Bool) (m : MemOperand) (s : State) : (resolve wl m s).2.mem = s.mem := by
  cases m <;> simp [resolve]

@[simp] theorem resolve_phase (wl : Bool) (m : MemOperand) (s : State) : (resolve wl m s).2.phase = s.phase := by
  cases m <;> simp [resolve]

@[simp] theorem resolve_hostRegions (wl : Bool) (m : MemOperand) (s : State) :
    (resolve wl m s).2.hostRegions = s.hostRegions := by
  cases m <;> simp [resolve]

/-- A mode advances PC past its operand bytes and writes no other register (R160). -/
@[simp] theorem resolve_regs (wl : Bool) (m : MemOperand) (s : State) :
    (resolve wl m s).2.regs = s.regs.setPc (s.regs.pc + BitVec.ofNat 16 m.bytes.length) := by
  cases m <;> simp [resolve, MemOperand.bytes, RegFile.incPc, RegFile.setPc, BitVec.add_assoc]

/-- The address a mode delivers does not depend on the write-like signal. -/
theorem resolve_fst (wl wl' : Bool) (m : MemOperand) (s : State) : (resolve wl m s).1 = (resolve wl' m s).1 := by
  cases m <;> rfl

/-- Every access of an earlier cycle stays in the history. -/
theorem resolve_history (wl : Bool) (m : MemOperand) (s : State) :
    ∃ l : List BusAccess, (resolve wl m s).2.history = l ++ s.history := by
  cases m with
  | zp z => exact ⟨[.read s.regs.pc], rfl⟩
  | zpx z => exact ⟨[.read (zext16 z), .read s.regs.pc], rfl⟩
  | zpy z => exact ⟨[.read (zext16 z), .read s.regs.pc], rfl⟩
  | abs a => exact ⟨[.read (s.regs.pc + 1), .read s.regs.pc], rfl⟩
  | abx a =>
    simp only [resolve, indexCycle_history]
    split
    · exact ⟨[_, .read (s.regs.pc + 1), .read s.regs.pc], rfl⟩
    · exact ⟨[.read (s.regs.pc + 1), .read s.regs.pc], rfl⟩
  | aby a =>
    simp only [resolve, indexCycle_history]
    split
    · exact ⟨[_, .read (s.regs.pc + 1), .read s.regs.pc], rfl⟩
    · exact ⟨[.read (s.regs.pc + 1), .read s.regs.pc], rfl⟩
  | izx p => exact ⟨[_, _, .read (zext16 p), .read s.regs.pc], rfl⟩
  | izy p =>
    simp only [resolve, indexCycle_history]
    split
    · exact ⟨[_, _, .read (zext16 p), .read s.regs.pc], rfl⟩
    · exact ⟨[_, .read (zext16 p), .read s.regs.pc], rfl⟩
  | ind a => exact ⟨[_, .read a, .read (s.regs.pc + 1), .read s.regs.pc], rfl⟩

end Sys2Proof.Machine
end

