-- ==== Sys2Proof/Laws/PerInstr.lean ====
section
/-! SUPPORT. Statements made per instruction: the families of LAWS.json, one lemma per constructor of `Instr`. -/

namespace Sys2Proof.Laws.WellFormed

/-- Every instruction has a mode its operation's Encoding line names, and a padding byte exactly if it is BRK
(30_encoding.md R70, R75). -/
def Statement (i : Instr) : Prop := i.wellFormed = true

theorem brk (pad : Byte) : Statement (.brk pad) := rfl
theorem oraIzx (p : Byte) : Statement (.oraIzx p) := rfl
theorem oraZp (z : Byte) : Statement (.oraZp z) := rfl
theorem aslZp (z : Byte) : Statement (.aslZp z) := rfl
theorem php : Statement .php := rfl
theorem oraImm (v : Byte) : Statement (.oraImm v) := rfl
theorem aslAcc : Statement .aslAcc := rfl
theorem oraAbs (a : Word) : Statement (.oraAbs a) := rfl
theorem aslAbs (a : Word) : Statement (.aslAbs a) := rfl
theorem bpl (off : Byte) : Statement (.bpl off) := rfl
theorem oraIzy (p : Byte) : Statement (.oraIzy p) := rfl
theorem oraZpx (z : Byte) : Statement (.oraZpx z) := rfl
theorem aslZpx (z : Byte) : Statement (.aslZpx z) := rfl
theorem clc : Statement .clc := rfl
theorem oraAby (a : Word) : Statement (.oraAby a) := rfl
theorem oraAbx (a : Word) : Statement (.oraAbx a) := rfl
theorem aslAbx (a : Word) : Statement (.aslAbx a) := rfl
theorem jsr (a : Word) : Statement (.jsr a) := rfl
theorem andIzx (p : Byte) : Statement (.andIzx p) := rfl
theorem bitZp (z : Byte) : Statement (.bitZp z) := rfl
theorem andZp (z : Byte) : Statement (.andZp z) := rfl
theorem rolZp (z : Byte) : Statement (.rolZp z) := rfl
theorem plp : Statement .plp := rfl
theorem andImm (v : Byte) : Statement (.andImm v) := rfl
theorem rolAcc : Statement .rolAcc := rfl
theorem bitAbs (a : Word) : Statement (.bitAbs a) := rfl
theorem andAbs (a : Word) : Statement (.andAbs a) := rfl
theorem rolAbs (a : Word) : Statement (.rolAbs a) := rfl
theorem bmi (off : Byte) : Statement (.bmi off) := rfl
theorem andIzy (p : Byte) : Statement (.andIzy p) := rfl
theorem andZpx (z : Byte) : Statement (.andZpx z) := rfl
theorem rolZpx (z : Byte) : Statement (.rolZpx z) := rfl
theorem sec : Statement .sec := rfl
theorem andAby (a : Word) : Statement (.andAby a) := rfl
theorem andAbx (a : Word) : Statement (.andAbx a) := rfl
theorem rolAbx (a : Word) : Statement (.rolAbx a) := rfl
theorem rti : Statement .rti := rfl
theorem eorIzx (p : Byte) : Statement (.eorIzx p) := rfl
theorem eorZp (z : Byte) : Statement (.eorZp z) := rfl
theorem lsrZp (z : Byte) : Statement (.lsrZp z) := rfl
theorem pha : Statement .pha := rfl
theorem eorImm (v : Byte) : Statement (.eorImm v) := rfl
theorem lsrAcc : Statement .lsrAcc := rfl
theorem jmpAbs (a : Word) : Statement (.jmpAbs a) := rfl
theorem eorAbs (a : Word) : Statement (.eorAbs a) := rfl
theorem lsrAbs (a : Word) : Statement (.lsrAbs a) := rfl
theorem bvc (off : Byte) : Statement (.bvc off) := rfl
theorem eorIzy (p : Byte) : Statement (.eorIzy p) := rfl
theorem eorZpx (z : Byte) : Statement (.eorZpx z) := rfl
theorem lsrZpx (z : Byte) : Statement (.lsrZpx z) := rfl
theorem cli : Statement .cli := rfl
theorem eorAby (a : Word) : Statement (.eorAby a) := rfl
theorem eorAbx (a : Word) : Statement (.eorAbx a) := rfl
theorem lsrAbx (a : Word) : Statement (.lsrAbx a) := rfl
theorem rts : Statement .rts := rfl
theorem adcIzx (p : Byte) : Statement (.adcIzx p) := rfl
theorem adcZp (z : Byte) : Statement (.adcZp z) := rfl
theorem rorZp (z : Byte) : Statement (.rorZp z) := rfl
theorem pla : Statement .pla := rfl
theorem adcImm (v : Byte) : Statement (.adcImm v) := rfl
theorem rorAcc : Statement .rorAcc := rfl
theorem jmpInd (a : Word) : Statement (.jmpInd a) := rfl
theorem adcAbs (a : Word) : Statement (.adcAbs a) := rfl
theorem rorAbs (a : Word) : Statement (.rorAbs a) := rfl
theorem bvs (off : Byte) : Statement (.bvs off) := rfl
theorem adcIzy (p : Byte) : Statement (.adcIzy p) := rfl
theorem adcZpx (z : Byte) : Statement (.adcZpx z) := rfl
theorem rorZpx (z : Byte) : Statement (.rorZpx z) := rfl
theorem sei : Statement .sei := rfl
theorem adcAby (a : Word) : Statement (.adcAby a) := rfl
theorem adcAbx (a : Word) : Statement (.adcAbx a) := rfl
theorem rorAbx (a : Word) : Statement (.rorAbx a) := rfl
theorem staIzx (p : Byte) : Statement (.staIzx p) := rfl
theorem styZp (z : Byte) : Statement (.styZp z) := rfl
theorem staZp (z : Byte) : Statement (.staZp z) := rfl
theorem stxZp (z : Byte) : Statement (.stxZp z) := rfl
theorem dey : Statement .dey := rfl
theorem txa : Statement .txa := rfl
theorem styAbs (a : Word) : Statement (.styAbs a) := rfl
theorem staAbs (a : Word) : Statement (.staAbs a) := rfl
theorem stxAbs (a : Word) : Statement (.stxAbs a) := rfl
theorem bcc (off : Byte) : Statement (.bcc off) := rfl
theorem staIzy (p : Byte) : Statement (.staIzy p) := rfl
theorem styZpx (z : Byte) : Statement (.styZpx z) := rfl
theorem staZpx (z : Byte) : Statement (.staZpx z) := rfl
theorem stxZpy (z : Byte) : Statement (.stxZpy z) := rfl
theorem tya : Statement .tya := rfl
theorem staAby (a : Word) : Statement (.staAby a) := rfl
theorem txs : Statement .txs := rfl
theorem staAbx (a : Word) : Statement (.staAbx a) := rfl
theorem ldyImm (v : Byte) : Statement (.ldyImm v) := rfl
theorem ldaIzx (p : Byte) : Statement (.ldaIzx p) := rfl
theorem ldxImm (v : Byte) : Statement (.ldxImm v) := rfl
theorem ldyZp (z : Byte) : Statement (.ldyZp z) := rfl
theorem ldaZp (z : Byte) : Statement (.ldaZp z) := rfl
theorem ldxZp (z : Byte) : Statement (.ldxZp z) := rfl
theorem tay : Statement .tay := rfl
theorem ldaImm (v : Byte) : Statement (.ldaImm v) := rfl
theorem tax : Statement .tax := rfl
theorem ldyAbs (a : Word) : Statement (.ldyAbs a) := rfl
theorem ldaAbs (a : Word) : Statement (.ldaAbs a) := rfl
theorem ldxAbs (a : Word) : Statement (.ldxAbs a) := rfl
theorem bcs (off : Byte) : Statement (.bcs off) := rfl
theorem ldaIzy (p : Byte) : Statement (.ldaIzy p) := rfl
theorem ldyZpx (z : Byte) : Statement (.ldyZpx z) := rfl
theorem ldaZpx (z : Byte) : Statement (.ldaZpx z) := rfl
theorem ldxZpy (z : Byte) : Statement (.ldxZpy z) := rfl
theorem clv : Statement .clv := rfl
theorem ldaAby (a : Word) : Statement (.ldaAby a) := rfl
theorem tsx : Statement .tsx := rfl
theorem ldyAbx (a : Word) : Statement (.ldyAbx a) := rfl
theorem ldaAbx (a : Word) : Statement (.ldaAbx a) := rfl
theorem ldxAby (a : Word) : Statement (.ldxAby a) := rfl
theorem cpyImm (v : Byte) : Statement (.cpyImm v) := rfl
theorem cmpIzx (p : Byte) : Statement (.cmpIzx p) := rfl
theorem cpyZp (z : Byte) : Statement (.cpyZp z) := rfl
theorem cmpZp (z : Byte) : Statement (.cmpZp z) := rfl
theorem decZp (z : Byte) : Statement (.decZp z) := rfl
theorem iny : Statement .iny := rfl
theorem cmpImm (v : Byte) : Statement (.cmpImm v) := rfl
theorem dex : Statement .dex := rfl
theorem cpyAbs (a : Word) : Statement (.cpyAbs a) := rfl
theorem cmpAbs (a : Word) : Statement (.cmpAbs a) := rfl
theorem decAbs (a : Word) : Statement (.decAbs a) := rfl
theorem bne (off : Byte) : Statement (.bne off) := rfl
theorem cmpIzy (p : Byte) : Statement (.cmpIzy p) := rfl
theorem cmpZpx (z : Byte) : Statement (.cmpZpx z) := rfl
theorem decZpx (z : Byte) : Statement (.decZpx z) := rfl
theorem cld : Statement .cld := rfl
theorem cmpAby (a : Word) : Statement (.cmpAby a) := rfl
theorem cmpAbx (a : Word) : Statement (.cmpAbx a) := rfl
theorem decAbx (a : Word) : Statement (.decAbx a) := rfl
theorem cpxImm (v : Byte) : Statement (.cpxImm v) := rfl
theorem sbcIzx (p : Byte) : Statement (.sbcIzx p) := rfl
theorem cpxZp (z : Byte) : Statement (.cpxZp z) := rfl
theorem sbcZp (z : Byte) : Statement (.sbcZp z) := rfl
theorem incZp (z : Byte) : Statement (.incZp z) := rfl
theorem inx : Statement .inx := rfl
theorem sbcImm (v : Byte) : Statement (.sbcImm v) := rfl
theorem nop : Statement .nop := rfl
theorem cpxAbs (a : Word) : Statement (.cpxAbs a) := rfl
theorem sbcAbs (a : Word) : Statement (.sbcAbs a) := rfl
theorem incAbs (a : Word) : Statement (.incAbs a) := rfl
theorem beq (off : Byte) : Statement (.beq off) := rfl
theorem sbcIzy (p : Byte) : Statement (.sbcIzy p) := rfl
theorem sbcZpx (z : Byte) : Statement (.sbcZpx z) := rfl
theorem incZpx (z : Byte) : Statement (.incZpx z) := rfl
theorem sed : Statement .sed := rfl
theorem sbcAby (a : Word) : Statement (.sbcAby a) := rfl
theorem sbcAbx (a : Word) : Statement (.sbcAbx a) := rfl
theorem incAbx (a : Word) : Statement (.incAbx a) := rfl

end Sys2Proof.Laws.WellFormed
end

