-- ==== Sys2Proof/Laws/Shapes.lean ====
section
/-! SUPPORT. What each shape can do, once: its registers, its memory, and that it always answers a next state. -/

namespace Sys2Proof.Machine

theorem readImmediate_spec (f : Byte → RegFile → RegFile) (v : Byte) (s : State) :
    ∃ t, readImmediate f v s = .next t ∧ t.regs = f v s.regs.incPc.incPc ∧ t.mem = s.mem ∧ t.phase = s.phase ∧
      t.hostRegions = s.hostRegions ∧ t.history = .read (s.regs.pc + 1) :: .fetch s.regs.pc :: s.history :=
  ⟨_, rfl, rfl, rfl, rfl, rfl, rfl⟩

theorem readMemory_spec (f : Byte → RegFile → RegFile) (m : MemOperand) (s : State) :
    ∃ t, readMemory f m s = .next t ∧
      t.regs = f ((resolve false m s.opcodeFetch).2.answer (resolve false m s.opcodeFetch).1)
        (s.regs.incPc.setPc (s.regs.pc + 1 + BitVec.ofNat 16 m.bytes.length)) ∧
      t.mem = s.mem ∧ t.phase = s.phase ∧ t.hostRegions = s.hostRegions ∧
      t.history = .read (resolve false m s.opcodeFetch).1 :: (resolve false m s.opcodeFetch).2.history :=
  ⟨_, rfl, by simp, by simp, by simp, by simp, by simp⟩

theorem storeMemory_spec (source : RegFile → Byte) (m : MemOperand) (s : State) :
    ∃ t, storeMemory source m s = .next t ∧
      t.regs = s.regs.incPc.setPc (s.regs.pc + 1 + BitVec.ofNat 16 m.bytes.length) ∧
      t.mem = ((resolve true m s.opcodeFetch).2.perform
        (.write (resolve true m s.opcodeFetch).1 (source (resolve true m s.opcodeFetch).2.regs))).mem ∧
      t.phase = s.phase ∧ t.hostRegions = s.hostRegions :=
  ⟨_, rfl, by simp, rfl, by simp, by simp⟩

theorem modifyMemory_spec (f : Byte → RegFile → Byte × RegFile) (m : MemOperand) (s : State) :
    ∃ t, modifyMemory f m s = .next t ∧
      t.regs = (f ((resolve true m s.opcodeFetch).2.answer (resolve true m s.opcodeFetch).1)
        (s.regs.incPc.setPc (s.regs.pc + 1 + BitVec.ofNat 16 m.bytes.length))).2 ∧
      t.phase = s.phase ∧ t.hostRegions = s.hostRegions ∧
      ∀ a : Nat, a ≠ (resolve true m s.opcodeFetch).1.toNat → t.mem.read a = s.mem.read a := by
  refine ⟨_, rfl, by simp, by simp, by simp, fun a ha => ?_⟩
  simp only [State.busWrite_eq]
  rw [State.perform_mem_read_ne _ _ _ (by rintro w v ⟨⟩; exact ha),
    State.perform_mem_read_ne _ _ _ (by rintro w v ⟨⟩; exact ha)]
  simp

theorem implied_spec (f : RegFile → RegFile) (s : State) :
    ∃ t, implied f s = .next t ∧ t.regs = f s.regs.incPc ∧ t.mem = s.mem ∧ t.phase = s.phase ∧
      t.hostRegions = s.hostRegions ∧ t.history = .read (s.regs.pc + 1) :: .fetch s.regs.pc :: s.history :=
  ⟨_, rfl, rfl, rfl, rfl, rfl, rfl⟩

theorem jump_spec (m : MemOperand) (s : State) :
    ∃ t, jump m s = .next t ∧ t.regs = s.regs.setPc (resolve false m s.opcodeFetch).1 ∧ t.mem = s.mem ∧
      t.phase = s.phase ∧ t.hostRegions = s.hostRegions ∧ t.history = (resolve false m s.opcodeFetch).2.history :=
  ⟨_, rfl, by simp [RegFile.setPc, RegFile.incPc], by simp, by simp, by simp, by simp⟩

theorem pushRegister_spec (source : RegFile → Byte) (s : State) :
    ∃ t, pushRegister source s = .next t ∧ t.regs = s.regs.incPc.setS (s.regs.s - 1) ∧ t.phase = s.phase ∧
      t.hostRegions = s.hostRegions ∧
      (∀ a : Nat, a ≠ (stackAddress s.regs.s).toNat → t.mem.read a = s.mem.read a) ∧
      t.history = .write (stackAddress s.regs.s) (source s.regs.incPc) :: .read (s.regs.pc + 1) ::
        .fetch s.regs.pc :: s.history := by
  refine ⟨_, rfl, by simp, by simp, by simp, fun a ha => ?_, by simp⟩
  rw [State.push_mem, State.perform_mem_read_ne _ _ _ (by rintro w v ⟨⟩; simpa using ha)]
  rfl

@[simp] theorem pullCycles_regs (s : State) : (pullCycles s).regs = s.regs.incPc := by simp [pullCycles]
@[simp] theorem pullCycles_phase (s : State) : (pullCycles s).phase = s.phase := by simp [pullCycles]
@[simp] theorem pullCycles_mem (s : State) : (pullCycles s).mem = s.mem := by simp [pullCycles]
@[simp] theorem pullCycles_hostRegions (s : State) : (pullCycles s).hostRegions = s.hostRegions := by simp [pullCycles]
@[simp] theorem pullCycles_history (s : State) :
    (pullCycles s).history =
      .read (stackAddress s.regs.s) :: .read (s.regs.pc + 1) :: .fetch s.regs.pc :: s.history := by
  simp [pullCycles]

theorem pullRegister_spec (f : Byte → RegFile → RegFile) (s : State) :
    ∃ t, pullRegister f s = .next t ∧
      t.regs = f ((pullCycles s).answer (stackAddress (s.regs.s + 1))) (s.regs.incPc.setS (s.regs.s + 1)) ∧
      t.mem = s.mem ∧ t.phase = s.phase ∧ t.hostRegions = s.hostRegions :=
  ⟨_, rfl, rfl, rfl, rfl, rfl⟩

/-- JSR: the return address is pushed high byte first; the target's high byte is answered after both pushes (R210). -/
theorem jumpSubroutine_spec (a : Word) (s : State) :
    ∃ t, jumpSubroutine a s = .next t ∧ t.phase = s.phase ∧ t.hostRegions = s.hostRegions ∧
      t.regs = (s.regs.setS (s.regs.s - 1 - 1)).setPc
        (cat (({ t with history := t.history.tail } : State).answer (s.regs.pc + 1 + 1)) (lo a)) ∧
      t.history = .read (s.regs.pc + 1 + 1) :: .write (stackAddress (s.regs.s - 1)) (lo (s.regs.pc + 1 + 1)) ::
        .write (stackAddress s.regs.s) (hi (s.regs.pc + 1 + 1)) :: .read (stackAddress s.regs.s) ::
        .read (s.regs.pc + 1) :: .fetch s.regs.pc :: s.history ∧
      ∀ k : Nat, k ≠ (stackAddress s.regs.s).toNat → k ≠ (stackAddress (s.regs.s - 1)).toNat →
        t.mem.read k = s.mem.read k := by
  refine ⟨_, rfl, by simp, by simp, ?_, by simp, fun k h1 h2 => ?_⟩
  · simp [RegFile.setS, RegFile.setPc, RegFile.incPc, State.answer, State.hostAnswers]
  · simp only [State.mapRegs_mem, State.busRead_snd, State.perform_read_mem, State.push_mem]
    rw [State.perform_write_read_ne _ (by simpa using h2), State.push_mem,
      State.perform_write_read_ne _ (by simpa using h1)]
    rfl

/-- RTS: memory is not written; PC is one past the pulled address (R211). -/
theorem returnSubroutine_spec (s : State) :
    ∃ t, returnSubroutine s = .next t ∧ t.phase = s.phase ∧ t.hostRegions = s.hostRegions ∧ t.mem = s.mem ∧
      t.regs = (s.regs.setS (s.regs.s + 1 + 1)).setPc
        (cat ((pullCycles s).pull.2.pull.1) ((pullCycles s).pull.1) + 1) := by
  refine ⟨_, rfl, by simp, by simp, by simp, ?_⟩
  simp [RegFile.setS, RegFile.setPc, RegFile.incPc]

/-- RTI: memory is not written; P and PC are the pulled ones (R212). -/
theorem returnInterrupt_spec (s : State) :
    ∃ t, returnInterrupt s = .next t ∧ t.phase = s.phase ∧ t.hostRegions = s.hostRegions ∧ t.mem = s.mem ∧
      t.regs.a = s.regs.a ∧ t.regs.x = s.regs.x ∧ t.regs.y = s.regs.y ∧ t.regs.s = s.regs.s + 1 + 1 + 1 ∧
      t.regs.p = ((((pullCycles s).pull.1 ||| 0x20) &&& 0xEF) ||| 0x20) := by
  refine ⟨_, rfl, ?_⟩
  simp [State.returnFromInterrupt, RegFile.pullP, RegFile.writeP]

/-- BRK: three pushes, I set, PC from the vector as it is answered after the pushes (R213). -/
theorem breakInstruction_spec (pad : Byte) (s : State) :
    ∃ t, breakInstruction pad s = .next t ∧ t.phase = s.phase ∧ t.hostRegions = s.hostRegions ∧
      t.regs.a = s.regs.a ∧ t.regs.x = s.regs.x ∧ t.regs.y = s.regs.y ∧ t.regs.s = s.regs.s - 1 - 1 - 1 ∧
      t.regs.p = (s.regs.setFlag .i true).p ∧
      t.history = .read breakVectorHigh :: .read breakVectorLow ::
        .write (stackAddress (s.regs.s - 1 - 1)) s.regs.pushedP ::
        .write (stackAddress (s.regs.s - 1)) (lo (s.regs.pc + 1 + 1)) ::
        .write (stackAddress s.regs.s) (hi (s.regs.pc + 1 + 1)) ::
        .read (s.regs.pc + 1) :: .fetch s.regs.pc :: s.history ∧
      ∀ k : Nat, k ≠ (stackAddress s.regs.s).toNat → k ≠ (stackAddress (s.regs.s - 1)).toNat →
        k ≠ (stackAddress (s.regs.s - 1 - 1)).toNat → t.mem.read k = s.mem.read k := by
  refine ⟨_, rfl, by simp [State.enterBreak], by simp [State.enterBreak], by simp [State.enterBreak],
    by simp [State.enterBreak], by simp [State.enterBreak], by simp [State.enterBreak], ?_, ?_, fun k h1 h2 h3 => ?_⟩
  · simp [State.enterBreak, RegFile.setFlag, RegFile.writeP]
  · simp [State.enterBreak, RegFile.pushedP]
  · simp only [State.enterBreak, State.mapRegs_mem, State.busRead_snd, State.perform_read_mem, State.push_mem]
    rw [State.perform_write_read_ne _ (by simpa using h3), State.push_mem,
      State.perform_write_read_ne _ (by simpa using h2), State.push_mem,
      State.perform_write_read_ne _ (by simpa using h1)]
    rfl

theorem branch_spec (cond : RegFile → Bool) (off : Byte) (s : State) :
    ∃ t, branch cond off s = .next t ∧
      t.regs = s.regs.setPc
        (if cond s.regs.incPc.incPc then branchTarget (s.regs.pc + 1 + 1) off else s.regs.pc + 1 + 1) ∧
      t.mem = s.mem ∧ t.phase = s.phase ∧ t.hostRegions = s.hostRegions := by
  simp only [branch, State.operandFetch_regs, State.opcodeFetch_regs]
  by_cases h : cond s.regs.incPc.incPc = true
  · simp only [h, if_true]
    exact ⟨_, rfl, by simp [RegFile.setPc, RegFile.incPc], by simp, by simp, by simp⟩
  · simp only [h]
    exact ⟨_, rfl, rfl, rfl, rfl, rfl⟩

end Sys2Proof.Machine
end

