-- ==== Sys2Proof/Tests/Slice0.lean ====
section
/-! SUPPORT. Tests. Every expected value is written from spec/: the Encoding lines for the words, 95_test_vectors.md and the
rules' own examples for the steps. Last, for every obligation with hypotheses, a state and operands that meet them. -/

namespace Sys2Proof.Tests

open Sys2Proof.Machine Sys2Proof.Claims

/-- A Register File, in the order the vectors of 95_test_vectors.md write it. -/
def regs (a x y s p : Byte) (pc : Word) : RegFile := { a := a, x := x, y := y, s := s, pc := pc, p := p }

/-- A machine in phase Fetch on plain memory that holds the listed bytes. -/
def machine (r : RegFile) (cells : Memory) : State := { State.reset with regs := r, mem := cells }

/-- The registers, the phase and the requests, oldest first, of a next state. -/
def outcome : Result → Option (RegFile × Phase × List BusAccess)
  | .next s => some (s.regs, s.phase, s.history.reverse)
  | .fault _ => none
  | .refused _ => none

/-- One step leaves these registers, in phase Fetch, after these requests. -/
abbrev Runs (s : State) (r : RegFile) (bus : List BusAccess) : Prop := outcome (step s) = some (r, .fetch, bus)

/-- The registers of a next state and its byte at an address. -/
def left (a : Nat) : Result → Option (RegFile × Byte)
  | .next s => some (s.regs, s.mem.read a)
  | .fault _ => none
  | .refused _ => none

/-- One step leaves these registers and this byte. -/
abbrev Leaves (s : State) (r : RegFile) (a : Nat) (v : Byte) : Prop := left a (step s) = some (r, v)

/-- Each word decodes to its instruction, and is what the instruction encodes to. -/
abbrev Decodes (l : List (List Byte × Instr)) : Prop := ∀ p ∈ l, decode p.1 = .ok p.2 [] ∧ encode p.2 = p.1

/-! ### Well-formedness, on ill-formed terms -/

/-- There is no STA with an immediate operand (40_operations.md R105). -/
theorem test_wellFormed_refuses_sta_immediate : (Operand.imm 0x10).wellFormedFor .sta = false := by decide

/-- There is no LDX zero page,X (40_operations.md R103). -/
theorem test_wellFormed_refuses_ldx_zero_page_x : (Operand.mem (.zpx 0x10)).wellFormedFor .ldx = false := by decide

/-- There is no indirect form but JMP's (43_handbuilt.md R219). -/
theorem test_wellFormed_refuses_lda_indirect : (Operand.mem (.ind 0x1234)).wellFormedFor .lda = false := by decide

/-- NOP has no padding byte (30_encoding.md R70). -/
theorem test_wellFormed_refuses_nop_with_padding : (Operand.pad 0x00).wellFormedFor .nop = false := by decide

/-- BRK has one (43_handbuilt.md R213). -/
theorem test_wellFormed_refuses_brk_without_padding : Operand.imp.wellFormedFor .brk = false := by decide

/-- A branch offset is in -128 to 127 of the address after the branch (30_encoding.md R79). -/
theorem test_branch_range : branchInRange 0x0200 0x0281 = true ∧ branchInRange 0x0200 0x0282 = false ∧
    branchInRange 0x0200 0x0182 = true ∧ branchInRange 0x0200 0x0181 = false ∧
    branchInRange 0xFFFE 0x0001 = false := by decide

/-- The table and the Encoding lines name the same entries: every row is one of its operation's modes (R75). -/
theorem test_table_rows_are_well_formed :
    instructionTable.length = 151 ∧ instructionTable.all (fun r => Entry.wellFormed ⟨r.op, r.mode⟩) = true := by
  decide +kernel

/-! ### Decoding and text -/

/-- The Encoding lines of 40_operations.md R102 to R107; operand bytes low byte first (30_encoding.md R71). -/
theorem test_decode_loads_and_stores :
    Decodes [
      ([0xA1, 0x9C], .ldaIzx 0x9C), ([0xA5, 0x9C], .ldaZp 0x9C), ([0xA9, 0x9C], .ldaImm 0x9C),
      ([0xAD, 0x34, 0xE2], .ldaAbs 0xE234), ([0xB1, 0x9C], .ldaIzy 0x9C), ([0xB5, 0x9C], .ldaZpx 0x9C),
      ([0xB9, 0x34, 0xE2], .ldaAby 0xE234), ([0xBD, 0x34, 0xE2], .ldaAbx 0xE234), ([0xA2, 0x9C], .ldxImm 0x9C),
      ([0xA6, 0x9C], .ldxZp 0x9C), ([0xAE, 0x34, 0xE2], .ldxAbs 0xE234), ([0xB6, 0x9C], .ldxZpy 0x9C),
      ([0xBE, 0x34, 0xE2], .ldxAby 0xE234), ([0xA0, 0x9C], .ldyImm 0x9C), ([0xA4, 0x9C], .ldyZp 0x9C),
      ([0xAC, 0x34, 0xE2], .ldyAbs 0xE234), ([0xB4, 0x9C], .ldyZpx 0x9C), ([0xBC, 0x34, 0xE2], .ldyAbx 0xE234),
      ([0x81, 0x9C], .staIzx 0x9C), ([0x85, 0x9C], .staZp 0x9C), ([0x8D, 0x34, 0xE2], .staAbs 0xE234),
      ([0x91, 0x9C], .staIzy 0x9C), ([0x95, 0x9C], .staZpx 0x9C), ([0x99, 0x34, 0xE2], .staAby 0xE234),
      ([0x9D, 0x34, 0xE2], .staAbx 0xE234), ([0x86, 0x9C], .stxZp 0x9C), ([0x8E, 0x34, 0xE2], .stxAbs 0xE234),
      ([0x96, 0x9C], .stxZpy 0x9C), ([0x84, 0x9C], .styZp 0x9C), ([0x8C, 0x34, 0xE2], .styAbs 0xE234),
      ([0x94, 0x9C], .styZpx 0x9C)] := by decide

/-- The Encoding lines of 40_operations.md R108 to R110; operand bytes low byte first (30_encoding.md R71). -/
theorem test_decode_logic :
    Decodes [
      ([0x21, 0x9C], .andIzx 0x9C), ([0x25, 0x9C], .andZp 0x9C), ([0x29, 0x9C], .andImm 0x9C),
      ([0x2D, 0x34, 0xE2], .andAbs 0xE234), ([0x31, 0x9C], .andIzy 0x9C), ([0x35, 0x9C], .andZpx 0x9C),
      ([0x39, 0x34, 0xE2], .andAby 0xE234), ([0x3D, 0x34, 0xE2], .andAbx 0xE234), ([0x01, 0x9C], .oraIzx 0x9C),
      ([0x05, 0x9C], .oraZp 0x9C), ([0x09, 0x9C], .oraImm 0x9C), ([0x0D, 0x34, 0xE2], .oraAbs 0xE234),
      ([0x11, 0x9C], .oraIzy 0x9C), ([0x15, 0x9C], .oraZpx 0x9C), ([0x19, 0x34, 0xE2], .oraAby 0xE234),
      ([0x1D, 0x34, 0xE2], .oraAbx 0xE234), ([0x41, 0x9C], .eorIzx 0x9C), ([0x45, 0x9C], .eorZp 0x9C),
      ([0x49, 0x9C], .eorImm 0x9C), ([0x4D, 0x34, 0xE2], .eorAbs 0xE234), ([0x51, 0x9C], .eorIzy 0x9C),
      ([0x55, 0x9C], .eorZpx 0x9C), ([0x59, 0x34, 0xE2], .eorAby 0xE234), ([0x5D, 0x34, 0xE2], .eorAbx 0xE234)] := by decide

/-- The Encoding lines of 40_operations.md R111, R112; operand bytes low byte first (30_encoding.md R71). -/
theorem test_decode_addition_and_subtraction :
    Decodes [
      ([0x61, 0x9C], .adcIzx 0x9C), ([0x65, 0x9C], .adcZp 0x9C), ([0x69, 0x9C], .adcImm 0x9C),
      ([0x6D, 0x34, 0xE2], .adcAbs 0xE234), ([0x71, 0x9C], .adcIzy 0x9C), ([0x75, 0x9C], .adcZpx 0x9C),
      ([0x79, 0x34, 0xE2], .adcAby 0xE234), ([0x7D, 0x34, 0xE2], .adcAbx 0xE234), ([0xE1, 0x9C], .sbcIzx 0x9C),
      ([0xE5, 0x9C], .sbcZp 0x9C), ([0xE9, 0x9C], .sbcImm 0x9C), ([0xED, 0x34, 0xE2], .sbcAbs 0xE234),
      ([0xF1, 0x9C], .sbcIzy 0x9C), ([0xF5, 0x9C], .sbcZpx 0x9C), ([0xF9, 0x34, 0xE2], .sbcAby 0xE234),
      ([0xFD, 0x34, 0xE2], .sbcAbx 0xE234)] := by decide

/-- The Encoding lines of 40_operations.md R113 to R116; operand bytes low byte first (30_encoding.md R71). -/
theorem test_decode_comparisons :
    Decodes [
      ([0xC1, 0x9C], .cmpIzx 0x9C), ([0xC5, 0x9C], .cmpZp 0x9C), ([0xC9, 0x9C], .cmpImm 0x9C),
      ([0xCD, 0x34, 0xE2], .cmpAbs 0xE234), ([0xD1, 0x9C], .cmpIzy 0x9C), ([0xD5, 0x9C], .cmpZpx 0x9C),
      ([0xD9, 0x34, 0xE2], .cmpAby 0xE234), ([0xDD, 0x34, 0xE2], .cmpAbx 0xE234), ([0xE0, 0x9C], .cpxImm 0x9C),
      ([0xE4, 0x9C], .cpxZp 0x9C), ([0xEC, 0x34, 0xE2], .cpxAbs 0xE234), ([0xC0, 0x9C], .cpyImm 0x9C),
      ([0xC4, 0x9C], .cpyZp 0x9C), ([0xCC, 0x34, 0xE2], .cpyAbs 0xE234), ([0x24, 0x9C], .bitZp 0x9C),
      ([0x2C, 0x34, 0xE2], .bitAbs 0xE234)] := by decide

/-- The Encoding lines of 40_operations.md R117 to R120; operand bytes low byte first (30_encoding.md R71). -/
theorem test_decode_shifts :
    Decodes [
      ([0x06, 0x9C], .aslZp 0x9C), ([0x0A], .aslAcc), ([0x0E, 0x34, 0xE2], .aslAbs 0xE234),
      ([0x16, 0x9C], .aslZpx 0x9C), ([0x1E, 0x34, 0xE2], .aslAbx 0xE234), ([0x46, 0x9C], .lsrZp 0x9C),
      ([0x4A], .lsrAcc), ([0x4E, 0x34, 0xE2], .lsrAbs 0xE234), ([0x56, 0x9C], .lsrZpx 0x9C),
      ([0x5E, 0x34, 0xE2], .lsrAbx 0xE234), ([0x26, 0x9C], .rolZp 0x9C), ([0x2A], .rolAcc),
      ([0x2E, 0x34, 0xE2], .rolAbs 0xE234), ([0x36, 0x9C], .rolZpx 0x9C), ([0x3E, 0x34, 0xE2], .rolAbx 0xE234),
      ([0x66, 0x9C], .rorZp 0x9C), ([0x6A], .rorAcc), ([0x6E, 0x34, 0xE2], .rorAbs 0xE234),
      ([0x76, 0x9C], .rorZpx 0x9C), ([0x7E, 0x34, 0xE2], .rorAbx 0xE234)] := by decide

/-- The Encoding lines of 40_operations.md R121 to R126; operand bytes low byte first (30_encoding.md R71). -/
theorem test_decode_counts :
    Decodes [
      ([0xE6, 0x9C], .incZp 0x9C), ([0xEE, 0x34, 0xE2], .incAbs 0xE234), ([0xF6, 0x9C], .incZpx 0x9C),
      ([0xFE, 0x34, 0xE2], .incAbx 0xE234), ([0xC6, 0x9C], .decZp 0x9C), ([0xCE, 0x34, 0xE2], .decAbs 0xE234),
      ([0xD6, 0x9C], .decZpx 0x9C), ([0xDE, 0x34, 0xE2], .decAbx 0xE234), ([0xE8], .inx), ([0xC8], .iny),
      ([0xCA], .dex), ([0x88], .dey)] := by decide

/-- The Encoding lines of 40_operations.md R127 to R132; operand bytes low byte first (30_encoding.md R71). -/
theorem test_decode_transfers :
    Decodes [
      ([0xAA], .tax), ([0xA8], .tay), ([0x8A], .txa), ([0x98], .tya), ([0xBA], .tsx), ([0x9A], .txs)] := by decide

/-- The Encoding lines of 40_operations.md R133 to R140; operand bytes low byte first (30_encoding.md R71). -/
theorem test_decode_flag_operations :
    Decodes [
      ([0x18], .clc), ([0x38], .sec), ([0x58], .cli), ([0x78], .sei), ([0xB8], .clv), ([0xD8], .cld), ([0xF8], .sed),
      ([0xEA], .nop)] := by decide

/-- The Encoding lines of 43_handbuilt.md R221 to R228; operand bytes low byte first (30_encoding.md R71). -/
theorem test_decode_branches :
    Decodes [
      ([0x10, 0x9C], .bpl 0x9C), ([0x30, 0x9C], .bmi 0x9C), ([0x50, 0x9C], .bvc 0x9C), ([0x70, 0x9C], .bvs 0x9C),
      ([0x90, 0x9C], .bcc 0x9C), ([0xB0, 0x9C], .bcs 0x9C), ([0xD0, 0x9C], .bne 0x9C), ([0xF0, 0x9C], .beq 0x9C)] := by decide

/-- The Encoding lines of 43_handbuilt.md R214 to R217; operand bytes low byte first (30_encoding.md R71). -/
theorem test_decode_stack :
    Decodes [
      ([0x48], .pha), ([0x08], .php), ([0x68], .pla), ([0x28], .plp)] := by decide

/-- The Encoding lines of 43_handbuilt.md R210 to R213, R218, R219; operand bytes low byte first (30_encoding.md R71). -/
theorem test_decode_control :
    Decodes [
      ([0x20, 0x34, 0xE2], .jsr 0xE234), ([0x60], .rts), ([0x40], .rti), ([0x00, 0x9C], .brk 0x9C),
      ([0x4C, 0x34, 0xE2], .jmpAbs 0xE234), ([0x6C, 0x34, 0xE2], .jmpInd 0xE234)] := by decide

/-- 30_encoding.md R76, R78: an illegal opcode and a listing over one; a stream that ends early (the model's choice, entry
20). -/
theorem test_decode_refusals :
    decode [0x02, 0xA9] = .error (.illegalOpcode 0x02) ∧ decode [0xAD, 0x34] = .error .truncated ∧
      decode [] = .error .truncated ∧
      listing 8 [0xA9, 0x01, 0xFF, 0x00, 0xEA, 0xEA] = [.inl (.ldaImm 0x01), .inr 0xFF, .inl (.brk 0xEA), .inl .nop] ∧
      listing 8 [0xEA, 0x00] = [.inl .nop] := by
  decide

/-- The word of the opcode table for JSR, its operand bytes in bits 23..8. -/
theorem test_decode_table_word :
    decodeTableWord 24 0x123420 = some (.jsr 0x1234) ∧ decodeTableWord 8 0xA9 = some (.ldaImm 0x00) ∧
      decodeTableWord 8 0x02 = none := by decide

/-- 30_encoding.md R79, each operand form; the target text and offset of P1's BNE (95_test_vectors.md). -/
theorem test_assembler_text :
    (Instr.ldaImm 0x5A).text 0x0600 = "LDA #$5A" ∧ (Instr.ldxZpy 0xFF).text 0x0600 = "LDX $FF,Y" ∧
      (Instr.ldaAbx 0x12F0).text 0x0600 = "LDA $12F0,X" ∧ (Instr.ldaIzx 0x32).text 0x0600 = "LDA ($32,X)" ∧
      (Instr.ldaIzy 0x40).text 0x0600 = "LDA ($40),Y" ∧ (Instr.jmpInd 0x30FF).text 0x0600 = "JMP ($30FF)" ∧
      Instr.aslAcc.text 0x0600 = "ASL A" ∧ (Instr.brk 0xEA).text 0x0600 = "BRK" ∧
      (Instr.bne 0xFB).text 0x0608 = "BNE $0605" := by decide

/-- 30_encoding.md R79: P1's BNE at 0608 to 0605, the two ends of the range, and a target out of it. -/
theorem test_branch_offset :
    branchOffset 0x0608 0x0605 = some 0xFB ∧ branchOffset 0x0200 0x0281 = some 0x7F ∧
      branchOffset 0x0200 0x0182 = some 0x80 ∧ branchOffset 0x0200 0x0282 = none := by decide

/-! ### Steps: the vectors of 95_test_vectors.md -/

/-- 95_test_vectors.md V-A3: LDA $F0,X with X=0x20 (ZPX wrap, R163). -/
theorem test_va3_lda :
    Runs (machine (regs 0x00 0x20 0x00 0xFF 0x20 0x0600)
      [(0x0010, 0x77), (0x00F0, 0x11), (0x0600, 0xB5), (0x0601, 0xF0)])
      (regs 0x77 0x20 0x00 0xFF 0x20 0x0602)
      [.fetch 0x0600, .read 0x0601, .read 0x00F0, .read 0x0010] := by decide

/-- 95_test_vectors.md V-A4: LDX $FF,Y with Y=0x02 (ZPY wrap, R164). -/
theorem test_va4_ldx :
    Runs (machine (regs 0x00 0x00 0x02 0xFF 0x20 0x0600)
      [(0x00FF, 0x33), (0x0600, 0xB6), (0x0601, 0xFF)])
      (regs 0x00 0x00 0x02 0xFF 0x22 0x0602)
      [.fetch 0x0600, .read 0x0601, .read 0x00FF, .read 0x0001] := by decide

/-- 95_test_vectors.md V-A5: LDA $1234 (ABS, R165). -/
theorem test_va5_lda :
    Runs (machine (regs 0x00 0x00 0x00 0xFF 0x20 0x0600)
      [(0x0600, 0xAD), (0x0601, 0x34), (0x0602, 0x12), (0x1234, 0x01)])
      (regs 0x01 0x00 0x00 0xFF 0x20 0x0603)
      [.fetch 0x0600, .read 0x0601, .read 0x0602, .read 0x1234] := by decide

/-- 95_test_vectors.md V-A6: LDA $12F0,X with X=0x0F (ABX read, no crossing, R166). -/
theorem test_va6_lda :
    Runs (machine (regs 0x00 0x0F 0x00 0xFF 0x20 0x0600)
      [(0x0600, 0xBD), (0x0601, 0xF0), (0x0602, 0x12), (0x12FF, 0x42)])
      (regs 0x42 0x0F 0x00 0xFF 0x20 0x0603)
      [.fetch 0x0600, .read 0x0601, .read 0x0602, .read 0x12FF] := by decide

/-- 95_test_vectors.md V-A7: LDA $12F0,X with X=0x10 (ABX read, crossing, R166). -/
theorem test_va7_lda :
    Runs (machine (regs 0x00 0x10 0x00 0xFF 0x20 0x0600)
      [(0x0600, 0xBD), (0x0601, 0xF0), (0x0602, 0x12), (0x1200, 0xEE), (0x1300, 0x43)])
      (regs 0x43 0x10 0x00 0xFF 0x20 0x0603)
      [.fetch 0x0600, .read 0x0601, .read 0x0602, .read 0x1200, .read 0x1300] := by decide

/-- 95_test_vectors.md V-A9: STA $1200,X with X=0x05 (ABX write, no crossing, extra cycle anyway, R166/R179). -/
theorem test_va9_sta :
    Runs (machine (regs 0x99 0x05 0x00 0xFF 0x20 0x0600)
      [(0x0600, 0x9D), (0x0602, 0x12)])
      (regs 0x99 0x05 0x00 0xFF 0x20 0x0603)
      [.fetch 0x0600, .read 0x0601, .read 0x0602, .read 0x1205, .write 0x1205 0x99] := by decide

/-- 95_test_vectors.md V-A10: STA $12FF,X with X=0x01 (ABX write, crossing, R166). -/
theorem test_va10_sta :
    Runs (machine (regs 0x98 0x01 0x00 0xFF 0x20 0x0600)
      [(0x0600, 0x9D), (0x0601, 0xFF), (0x0602, 0x12)])
      (regs 0x98 0x01 0x00 0xFF 0x20 0x0603)
      [.fetch 0x0600, .read 0x0601, .read 0x0602, .read 0x1200, .write 0x1300 0x98] := by decide

/-- 95_test_vectors.md V-A11: LDA $20F0,Y with Y=0x20 (ABY read, crossing, R167). -/
theorem test_va11_lda :
    Runs (machine (regs 0x00 0x00 0x20 0xFF 0x20 0x0600)
      [(0x0600, 0xB9), (0x0601, 0xF0), (0x0602, 0x20), (0x2110, 0x07)])
      (regs 0x07 0x00 0x20 0xFF 0x20 0x0603)
      [.fetch 0x0600, .read 0x0601, .read 0x0602, .read 0x2010, .read 0x2110] := by decide

/-- 95_test_vectors.md V-A12: LDA ($32,X) with X=0xFE (IZX pointer wrap in page 0, R168). -/
theorem test_va12_lda :
    Runs (machine (regs 0x00 0xFE 0x00 0xFF 0x20 0x0600)
      [(0x0031, 0x04), (0x0400, 0x5A), (0x0600, 0xA1), (0x0601, 0x32)])
      (regs 0x5A 0xFE 0x00 0xFF 0x20 0x0602)
      [.fetch 0x0600, .read 0x0601, .read 0x0032, .read 0x0030, .read 0x0031, .read 0x0400] := by decide

/-- 95_test_vectors.md V-A13: LDA ($00,X) with X=0xFF (IZX pointer at 0x00FF, R168). -/
theorem test_va13_lda :
    Runs (machine (regs 0x00 0xFF 0x00 0xFF 0x20 0x0600)
      [(0x0000, 0x05), (0x0500, 0x66), (0x0600, 0xA1)])
      (regs 0x66 0xFF 0x00 0xFF 0x20 0x0602)
      [.fetch 0x0600, .read 0x0601, .read 0x0000, .read 0x00FF, .read 0x0000, .read 0x0500] := by decide

/-- 95_test_vectors.md V-A15: LDA ($40),Y with Y=0x10 (IZY read, crossing, R169). -/
theorem test_va15_lda :
    Runs (machine (regs 0x00 0x00 0x10 0xFF 0x20 0x0600)
      [(0x0040, 0xF8), (0x0041, 0x03), (0x0408, 0x22), (0x0600, 0xB1), (0x0601, 0x40)])
      (regs 0x22 0x00 0x10 0xFF 0x20 0x0602)
      [.fetch 0x0600, .read 0x0601, .read 0x0040, .read 0x0041, .read 0x0308, .read 0x0408] := by decide

/-- 95_test_vectors.md V-A16: LDA ($FF),Y with Y=0x00 (IZY pointer at 0x00FF, R169). -/
theorem test_va16_lda :
    Runs (machine (regs 0x00 0x00 0x00 0xFF 0x20 0x0600)
      [(0x0000, 0x07), (0x0600, 0xB1), (0x0601, 0xFF), (0x0700, 0x23)])
      (regs 0x23 0x00 0x00 0xFF 0x20 0x0602)
      [.fetch 0x0600, .read 0x0601, .read 0x00FF, .read 0x0000, .read 0x0700] := by decide

/-- 95_test_vectors.md V-A17: STA ($40),Y with Y=0x01 (IZY write, extra cycle anyway, R169). -/
theorem test_va17_sta :
    Runs (machine (regs 0x55 0x00 0x01 0xFF 0x20 0x0600)
      [(0x0041, 0x03), (0x0600, 0x91), (0x0601, 0x40)])
      (regs 0x55 0x00 0x01 0xFF 0x20 0x0602)
      [.fetch 0x0600, .read 0x0601, .read 0x0040, .read 0x0041, .read 0x0301, .write 0x0301 0x55] := by decide

/-- 95_test_vectors.md V-A18: STX $80,Y with X=0x01, Y=0xFF (ZPY write wrap, R106). -/
theorem test_va18_stx :
    Runs (machine (regs 0x00 0x01 0xFF 0xFF 0x20 0x0600)
      [(0x0600, 0x96), (0x0601, 0x80)])
      (regs 0x00 0x01 0xFF 0xFF 0x20 0x0602)
      [.fetch 0x0600, .read 0x0601, .read 0x0080, .write 0x007F 0x01] := by decide

/-- 95_test_vectors.md V-A19: INC $10 (ZP RMW, double write, R175). -/
theorem test_va19_inc :
    Runs (machine (regs 0x00 0x00 0x00 0xFF 0x20 0x0600)
      [(0x0010, 0xFF), (0x0600, 0xE6), (0x0601, 0x10)])
      (regs 0x00 0x00 0x00 0xFF 0x22 0x0602)
      [.fetch 0x0600, .read 0x0601, .read 0x0010, .write 0x0010 0xFF, .write 0x0010 0x00] := by decide

/-- 95_test_vectors.md V-A20: ASL $12FF,X with X=0x01 (ABX RMW, crossing, R175). -/
theorem test_va20_asl :
    Runs (machine (regs 0x00 0x01 0x00 0xFF 0x20 0x0600)
      [(0x0600, 0x1E), (0x0601, 0xFF), (0x0602, 0x12), (0x1300, 0x40)])
      (regs 0x00 0x01 0x00 0xFF 0xA0 0x0603)
      [.fetch 0x0600, .read 0x0601, .read 0x0602, .read 0x1200, .read 0x1300, .write 0x1300 0x40, .write 0x1300 0x80] := by decide

/-- 95_test_vectors.md V-A21: ROR $20,X with X=0x01, C=1 (ZPX RMW, R120). -/
theorem test_va21_ror :
    Runs (machine (regs 0x00 0x01 0x00 0xFF 0x21 0x0600)
      [(0x0021, 0x02), (0x0600, 0x76), (0x0601, 0x20)])
      (regs 0x00 0x01 0x00 0xFF 0xA0 0x0602)
      [.fetch 0x0600, .read 0x0601, .read 0x0020, .read 0x0021, .write 0x0021 0x02, .write 0x0021 0x81] := by decide

/-- 95_test_vectors.md V-A22: JMP $C000 (ABS jump, R218). -/
theorem test_va22_jmp :
    Runs (machine (regs 0x00 0x00 0x00 0xFF 0x20 0x0600)
      [(0x0600, 0x4C), (0x0602, 0xC0)])
      (regs 0x00 0x00 0x00 0xFF 0x20 0xC000)
      [.fetch 0x0600, .read 0x0601, .read 0x0602] := by decide

/-- 95_test_vectors.md V-A23: JMP ($0300) (IND, no wrap, R219). -/
theorem test_va23_jmp :
    Runs (machine (regs 0x00 0x00 0x00 0xFF 0x20 0x0600)
      [(0x0301, 0x80), (0x0600, 0x6C), (0x0602, 0x03)])
      (regs 0x00 0x00 0x00 0xFF 0x20 0x8000)
      [.fetch 0x0600, .read 0x0601, .read 0x0602, .read 0x0300, .read 0x0301] := by decide

/-- 95_test_vectors.md V-A24: JMP ($30FF) (IND page-wrap defect, R170). -/
theorem test_va24_jmp :
    Runs (machine (regs 0x00 0x00 0x00 0xFF 0x20 0x0600)
      [(0x0600, 0x6C), (0x0601, 0xFF), (0x0602, 0x30), (0x3000, 0x12), (0x30FF, 0x34), (0x3100, 0x99)])
      (regs 0x00 0x00 0x00 0xFF 0x20 0x1234)
      [.fetch 0x0600, .read 0x0601, .read 0x0602, .read 0x30FF, .read 0x3000] := by decide

/-- 95_test_vectors.md V-A25: LDA $FF (ZP at the top of page 0, R162). -/
theorem test_va25_lda :
    Runs (machine (regs 0x00 0x00 0x00 0xFF 0x20 0x0600)
      [(0x00FF, 0x01), (0x0600, 0xA5), (0x0601, 0xFF)])
      (regs 0x01 0x00 0x00 0xFF 0x20 0x0602)
      [.fetch 0x0600, .read 0x0601, .read 0x00FF] := by decide

/-- 95_test_vectors.md V-A26: BIT $2000 (ABS read, R116). -/
theorem test_va26_bit :
    Runs (machine (regs 0x3F 0x00 0x00 0xFF 0x20 0x0600)
      [(0x0600, 0x2C), (0x0602, 0x20), (0x2000, 0xC0)])
      (regs 0x3F 0x00 0x00 0xFF 0xE2 0x0603)
      [.fetch 0x0600, .read 0x0601, .read 0x0602, .read 0x2000] := by decide

/-- 95_test_vectors.md V-H1: JSR $1234 at 0x0600, S=0xFF (R210 example). -/
theorem test_vh1_jsr :
    Runs (machine (regs 0x00 0x00 0x00 0xFF 0x20 0x0600)
      [(0x0600, 0x20), (0x0601, 0x34), (0x0602, 0x12)])
      (regs 0x00 0x00 0x00 0xFD 0x20 0x1234)
      [.fetch 0x0600, .read 0x0601, .read 0x01FF, .write 0x01FF 0x06, .write 0x01FE 0x02, .read 0x0602] := by decide

/-- 95_test_vectors.md V-H2: JSR $1234 with S=0x00 (R210 corner, section 8 example). -/
theorem test_vh2_jsr :
    Runs (machine (regs 0x00 0x00 0x00 0x00 0x20 0x0600)
      [(0x0600, 0x20), (0x0601, 0x34), (0x0602, 0x12)])
      (regs 0x00 0x00 0x00 0xFE 0x20 0x1234)
      [.fetch 0x0600, .read 0x0601, .read 0x0100, .write 0x0100 0x06, .write 0x01FF 0x02, .read 0x0602] := by decide

/-- 95_test_vectors.md V-H3: RTS with S=0xFD (R211 example). -/
theorem test_vh3_rts :
    Runs (machine (regs 0x00 0x00 0x00 0xFD 0x20 0x0600)
      [(0x01FE, 0x02), (0x01FF, 0x06), (0x0600, 0x60)])
      (regs 0x00 0x00 0x00 0xFF 0x20 0x0603)
      [.fetch 0x0600, .read 0x0601, .read 0x01FD, .read 0x01FE, .read 0x01FF, .read 0x0602] := by decide

/-- 95_test_vectors.md V-H4: RTS with S=0xFF (R211 corner: pulls from 0x0100, 0x0101). -/
theorem test_vh4_rts :
    Runs (machine (regs 0x00 0x00 0x00 0xFF 0x20 0x0600)
      [(0x0100, 0xFF), (0x0101, 0xFF), (0x0600, 0x60)])
      (regs 0x00 0x00 0x00 0x01 0x20 0x0000)
      [.fetch 0x0600, .read 0x0601, .read 0x01FF, .read 0x0100, .read 0x0101, .read 0xFFFF] := by decide

/-- 95_test_vectors.md V-H5: RTI with S=0xFC (R212 example). -/
theorem test_vh5_rti :
    Runs (machine (regs 0x00 0x00 0x00 0xFC 0x20 0x0600)
      [(0x01FD, 0xB3), (0x01FE, 0x02), (0x01FF, 0x06), (0x0600, 0x40)])
      (regs 0x00 0x00 0x00 0xFF 0xA3 0x0602)
      [.fetch 0x0600, .read 0x0601, .read 0x01FC, .read 0x01FD, .read 0x01FE, .read 0x01FF] := by decide

/-- 95_test_vectors.md V-H6: RTI with S=0xFE (R212 corner). -/
theorem test_vh6_rti :
    Runs (machine (regs 0x00 0x00 0x00 0xFE 0x24 0x0600)
      [(0x0101, 0x80), (0x01FF, 0xFF), (0x0600, 0x40)])
      (regs 0x00 0x00 0x00 0x01 0xEF 0x8000)
      [.fetch 0x0600, .read 0x0601, .read 0x01FE, .read 0x01FF, .read 0x0100, .read 0x0101] := by decide

/-- 95_test_vectors.md V-H7: BRK at 0x0600 (R213 example). -/
theorem test_vh7_brk :
    Runs (machine (regs 0x00 0x00 0x00 0xFF 0x20 0x0600)
      [(0x0601, 0xEA), (0xFFFF, 0x80)])
      (regs 0x00 0x00 0x00 0xFC 0x24 0x8000)
      [.fetch 0x0600, .read 0x0601, .write 0x01FF 0x06, .write 0x01FE 0x02, .write 0x01FD 0x30, .read 0xFFFE,
      .read 0xFFFF] := by decide

/-- 95_test_vectors.md V-H8: BRK with S=0x01, P=0xCB (R213 corner). -/
theorem test_vh8_brk :
    Runs (machine (regs 0x00 0x00 0x00 0x01 0xEB 0x0600)
      [(0x0601, 0xEA), (0xFFFE, 0x34), (0xFFFF, 0x12)])
      (regs 0x00 0x00 0x00 0xFE 0xEF 0x1234)
      [.fetch 0x0600, .read 0x0601, .write 0x0101 0x06, .write 0x0100 0x02, .write 0x01FF 0xFB, .read 0xFFFE,
      .read 0xFFFF] := by decide

/-- 95_test_vectors.md V-H9: PHA (R214 example). -/
theorem test_vh9_pha :
    Runs (machine (regs 0x5A 0x00 0x00 0xFF 0x20 0x0600)
      [(0x0600, 0x48)])
      (regs 0x5A 0x00 0x00 0xFE 0x20 0x0601)
      [.fetch 0x0600, .read 0x0601, .write 0x01FF 0x5A] := by decide

/-- 95_test_vectors.md V-H10: PHA with S=0x00 (R214 corner). -/
theorem test_vh10_pha :
    Runs (machine (regs 0x01 0x00 0x00 0x00 0x20 0x0600)
      [(0x0600, 0x48)])
      (regs 0x01 0x00 0x00 0xFF 0x20 0x0601)
      [.fetch 0x0600, .read 0x0601, .write 0x0100 0x01] := by decide

/-- 95_test_vectors.md V-H11: PHP with P=0x21 (R215 example). -/
theorem test_vh11_php :
    Runs (machine (regs 0x00 0x00 0x00 0xFF 0x21 0x0600)
      [(0x0600, 0x08)])
      (regs 0x00 0x00 0x00 0xFE 0x21 0x0601)
      [.fetch 0x0600, .read 0x0601, .write 0x01FF 0x31] := by decide

/-- 95_test_vectors.md V-H12: PLA (R216 example). -/
theorem test_vh12_pla :
    Runs (machine (regs 0x00 0x00 0x00 0xFE 0x20 0x0600)
      [(0x01FF, 0x80), (0x0600, 0x68)])
      (regs 0x80 0x00 0x00 0xFF 0xA0 0x0601)
      [.fetch 0x0600, .read 0x0601, .read 0x01FE, .read 0x01FF] := by decide

/-- 95_test_vectors.md V-H13: PLA with S=0xFF (R216 corner). -/
theorem test_vh13_pla :
    Runs (machine (regs 0x00 0x00 0x00 0xFF 0x20 0x0600)
      [(0x0600, 0x68)])
      (regs 0x00 0x00 0x00 0x00 0x22 0x0601)
      [.fetch 0x0600, .read 0x0601, .read 0x01FF, .read 0x0100] := by decide

/-- 95_test_vectors.md V-H14: PLP pulling 0xFF (R217 corner). -/
theorem test_vh14_plp :
    Runs (machine (regs 0x00 0x00 0x00 0xFE 0x20 0x0600)
      [(0x01FF, 0xFF), (0x0600, 0x28)])
      (regs 0x00 0x00 0x00 0xFF 0xEF 0x0601)
      [.fetch 0x0600, .read 0x0601, .read 0x01FE, .read 0x01FF] := by decide

/-- 95_test_vectors.md V-H15: PLP pulling 0x00 (R217 corner). -/
theorem test_vh15_plp :
    Runs (machine (regs 0x00 0x00 0x00 0xFE 0xE3 0x0600)
      [(0x0600, 0x28)])
      (regs 0x00 0x00 0x00 0xFF 0x20 0x0601)
      [.fetch 0x0600, .read 0x0601, .read 0x01FE, .read 0x01FF] := by decide

/-- 95_test_vectors.md V-B1: BPL taken, same page (R221 example). -/
theorem test_vb1_bpl :
    Runs (machine (regs 0x00 0x00 0x00 0xFF 0x20 0x0200)
      [(0x0200, 0x10), (0x0201, 0x10)])
      (regs 0x00 0x00 0x00 0xFF 0x20 0x0212)
      [.fetch 0x0200, .read 0x0201, .read 0x0202] := by decide

/-- 95_test_vectors.md V-B2: BMI not taken (R222 example). -/
theorem test_vb2_bmi :
    Runs (machine (regs 0x00 0x00 0x00 0xFF 0x20 0x0200)
      [(0x0200, 0x30), (0x0201, 0x10)])
      (regs 0x00 0x00 0x00 0xFF 0x20 0x0202)
      [.fetch 0x0200, .read 0x0201] := by decide

/-- 95_test_vectors.md V-B3: BVC taken backward across a page (R223 example). -/
theorem test_vb3_bvc :
    Runs (machine (regs 0x00 0x00 0x00 0xFF 0x20 0x0300)
      [(0x0300, 0x50), (0x0301, 0x80)])
      (regs 0x00 0x00 0x00 0xFF 0x20 0x0282)
      [.fetch 0x0300, .read 0x0301, .read 0x0302, .read 0x0382] := by decide

/-- 95_test_vectors.md V-B4: BVS taken, offset 0 (R224 example). -/
theorem test_vb4_bvs :
    Runs (machine (regs 0x00 0x00 0x00 0xFF 0x60 0x0200)
      [(0x0200, 0x70)])
      (regs 0x00 0x00 0x00 0xFF 0x60 0x0202)
      [.fetch 0x0200, .read 0x0201, .read 0x0202] := by decide

/-- 95_test_vectors.md V-B5: BCC not taken, backward offset (R225). -/
theorem test_vb5_bcc :
    Runs (machine (regs 0x00 0x00 0x00 0xFF 0x21 0x0200)
      [(0x0200, 0x90), (0x0201, 0x80)])
      (regs 0x00 0x00 0x00 0xFF 0x21 0x0202)
      [.fetch 0x0200, .read 0x0201] := by decide

/-- 95_test_vectors.md V-B6: BCS taken forward across a page (R226 example). -/
theorem test_vb6_bcs :
    Runs (machine (regs 0x00 0x00 0x00 0xFF 0x21 0x02F0)
      [(0x02F0, 0xB0), (0x02F1, 0x20)])
      (regs 0x00 0x00 0x00 0xFF 0x21 0x0312)
      [.fetch 0x02F0, .read 0x02F1, .read 0x02F2, .read 0x0212] := by decide

/-- 95_test_vectors.md V-B7: BNE taken backward, same page (R227 example). -/
theorem test_vb7_bne :
    Runs (machine (regs 0x00 0x00 0x00 0xFF 0x20 0x0204)
      [(0x0204, 0xD0), (0x0205, 0xFA)])
      (regs 0x00 0x00 0x00 0xFF 0x20 0x0200)
      [.fetch 0x0204, .read 0x0205, .read 0x0206] := by decide

/-- 95_test_vectors.md V-B8: BEQ not taken (R228 example). -/
theorem test_vb8_beq :
    Runs (machine (regs 0x00 0x00 0x00 0xFF 0x20 0x0200)
      [(0x0200, 0xF0), (0x0201, 0x7F)])
      (regs 0x00 0x00 0x00 0xFF 0x20 0x0202)
      [.fetch 0x0200, .read 0x0201] := by decide

/-- 95_test_vectors.md V-B9: BEQ taken at 0xFFFE, offset 0x01 (R220 corner: wraps to page 0, same page). -/
theorem test_vb9_beq :
    Runs (machine (regs 0x00 0x00 0x00 0xFF 0x22 0xFFFE)
      [(0xFFFE, 0xF0), (0xFFFF, 0x01)])
      (regs 0x00 0x00 0x00 0xFF 0x22 0x0001)
      [.fetch 0xFFFE, .read 0xFFFF, .read 0x0000] := by decide

/-- 95_test_vectors.md V-B10: BNE taken at 0xFFF0, offset 0x7F (R220 corner: wraps, crosses). -/
theorem test_vb10_bne :
    Runs (machine (regs 0x00 0x00 0x00 0xFF 0x20 0xFFF0)
      [(0xFFF0, 0xD0), (0xFFF1, 0x7F)])
      (regs 0x00 0x00 0x00 0xFF 0x20 0x0071)
      [.fetch 0xFFF0, .read 0xFFF1, .read 0xFFF2, .read 0xFF71] := by decide

/-- 95_test_vectors.md V-I1: TXS with X=0x00 (R132). -/
theorem test_vi1_txs :
    Runs (machine (regs 0x00 0x00 0x00 0xFF 0x20 0x0600)
      [(0x0600, 0x9A)])
      (regs 0x00 0x00 0x00 0x00 0x20 0x0601)
      [.fetch 0x0600, .read 0x0601] := by decide

/-- 95_test_vectors.md V-I2: NOP (R140, R176). -/
theorem test_vi2_nop :
    Runs (machine (regs 0x00 0x00 0x00 0xFF 0x20 0x0600)
      [(0x0600, 0xEA)])
      (regs 0x00 0x00 0x00 0xFF 0x20 0x0601)
      [.fetch 0x0600, .read 0x0601] := by decide

/-- 95_test_vectors.md V-I3: ASL A with A=0x80 (R117, section 8). -/
theorem test_vi3_asl :
    Runs (machine (regs 0x80 0x00 0x00 0xFF 0x20 0x0600)
      [(0x0600, 0x0A)])
      (regs 0x00 0x00 0x00 0xFF 0x23 0x0601)
      [.fetch 0x0600, .read 0x0601] := by decide

/-- 95_test_vectors.md L1, L2. -/
theorem test_l1_lda :
    Leaves (machine (regs 0x12 0x00 0x00 0xFF 0x20 0x0600) [(0x0600, 0xA9)])
      (regs 0x00 0x00 0x00 0xFF 0x22 0x0602) 0x600 0xA9 ∧
    Leaves (machine (regs 0x00 0x00 0x00 0xFF 0x20 0x0600) [(0x0600, 0xA9), (0x0601, 0x80)])
      (regs 0x80 0x00 0x00 0xFF 0xA0 0x0602) 0x600 0xA9 := by decide

/-- 95_test_vectors.md L3. -/
theorem test_l3_ldx :
    Leaves (machine (regs 0x00 0x00 0x00 0xFF 0x20 0x0600) [(0x0600, 0xA2), (0x0601, 0xFF)])
      (regs 0x00 0xFF 0x00 0xFF 0xA0 0x0602) 0x600 0xA2 := by decide

/-- 95_test_vectors.md L4. -/
theorem test_l4_ldy :
    Leaves (machine (regs 0x00 0x00 0x00 0xFF 0x20 0x0600) [(0x0600, 0xA0), (0x0601, 0x7F)])
      (regs 0x00 0x00 0x7F 0xFF 0x20 0x0602) 0x600 0xA0 := by decide

/-- 95_test_vectors.md L5, L6. -/
theorem test_l5_and :
    Leaves (machine (regs 0xF0 0x00 0x00 0xFF 0x20 0x0600) [(0x0600, 0x29), (0x0601, 0x3C)])
      (regs 0x30 0x00 0x00 0xFF 0x20 0x0602) 0x600 0x29 ∧
    Leaves (machine (regs 0xF0 0x00 0x00 0xFF 0x20 0x0600) [(0x0600, 0x29), (0x0601, 0x0F)])
      (regs 0x00 0x00 0x00 0xFF 0x22 0x0602) 0x600 0x29 := by decide

/-- 95_test_vectors.md L7. -/
theorem test_l7_ora :
    Leaves (machine (regs 0x01 0x00 0x00 0xFF 0x20 0x0600) [(0x0600, 0x09), (0x0601, 0x80)])
      (regs 0x81 0x00 0x00 0xFF 0xA0 0x0602) 0x600 0x09 := by decide

/-- 95_test_vectors.md L8, L9. -/
theorem test_l8_eor :
    Leaves (machine (regs 0xFF 0x00 0x00 0xFF 0x20 0x0600) [(0x0600, 0x49), (0x0601, 0x0F)])
      (regs 0xF0 0x00 0x00 0xFF 0xA0 0x0602) 0x600 0x49 ∧
    Leaves (machine (regs 0x5A 0x00 0x00 0xFF 0x20 0x0600) [(0x0600, 0x49), (0x0601, 0x5A)])
      (regs 0x00 0x00 0x00 0xFF 0x22 0x0602) 0x600 0x49 := by decide

/-- 95_test_vectors.md L10, L11, L12, L13, L14, L15, L16, L17. -/
theorem test_l10_adc :
    Leaves (machine (regs 0x10 0x00 0x00 0xFF 0x21 0x0600) [(0x0600, 0x69), (0x0601, 0x20)])
      (regs 0x31 0x00 0x00 0xFF 0x20 0x0602) 0x600 0x69 ∧
    Leaves (machine (regs 0x7F 0x00 0x00 0xFF 0x20 0x0600) [(0x0600, 0x69), (0x0601, 0x01)])
      (regs 0x80 0x00 0x00 0xFF 0xE0 0x0602) 0x600 0x69 ∧
    Leaves (machine (regs 0xFF 0x00 0x00 0xFF 0x20 0x0600) [(0x0600, 0x69), (0x0601, 0x01)])
      (regs 0x00 0x00 0x00 0xFF 0x23 0x0602) 0x600 0x69 ∧
    Leaves (machine (regs 0x80 0x00 0x00 0xFF 0x20 0x0600) [(0x0600, 0x69), (0x0601, 0x80)])
      (regs 0x00 0x00 0x00 0xFF 0x63 0x0602) 0x600 0x69 ∧
    Leaves (machine (regs 0xFF 0x00 0x00 0xFF 0x21 0x0600) [(0x0600, 0x69), (0x0601, 0xFF)])
      (regs 0xFF 0x00 0x00 0xFF 0xA1 0x0602) 0x600 0x69 ∧
    Leaves (machine (regs 0x50 0x00 0x00 0xFF 0x20 0x0600) [(0x0600, 0x69), (0x0601, 0x50)])
      (regs 0xA0 0x00 0x00 0xFF 0xE0 0x0602) 0x600 0x69 ∧
    Leaves (machine (regs 0xD0 0x00 0x00 0xFF 0x20 0x0600) [(0x0600, 0x69), (0x0601, 0x90)])
      (regs 0x60 0x00 0x00 0xFF 0x61 0x0602) 0x600 0x69 ∧
    Leaves (machine (regs 0x00 0x00 0x00 0xFF 0xE3 0x0600) [(0x0600, 0x69)])
      (regs 0x01 0x00 0x00 0xFF 0x20 0x0602) 0x600 0x69 := by decide

/-- 95_test_vectors.md L18, L19, L20, L21, L22, L23. -/
theorem test_l18_sbc :
    Leaves (machine (regs 0x00 0x00 0x00 0xFF 0x21 0x0600) [(0x0600, 0xE9), (0x0601, 0x01)])
      (regs 0xFF 0x00 0x00 0xFF 0xA0 0x0602) 0x600 0xE9 ∧
    Leaves (machine (regs 0x80 0x00 0x00 0xFF 0x21 0x0600) [(0x0600, 0xE9), (0x0601, 0x01)])
      (regs 0x7F 0x00 0x00 0xFF 0x61 0x0602) 0x600 0xE9 ∧
    Leaves (machine (regs 0x05 0x00 0x00 0xFF 0x21 0x0600) [(0x0600, 0xE9), (0x0601, 0x05)])
      (regs 0x00 0x00 0x00 0xFF 0x23 0x0602) 0x600 0xE9 ∧
    Leaves (machine (regs 0x05 0x00 0x00 0xFF 0x20 0x0600) [(0x0600, 0xE9), (0x0601, 0x05)])
      (regs 0xFF 0x00 0x00 0xFF 0xA0 0x0602) 0x600 0xE9 ∧
    Leaves (machine (regs 0x50 0x00 0x00 0xFF 0x21 0x0600) [(0x0600, 0xE9), (0x0601, 0xF0)])
      (regs 0x60 0x00 0x00 0xFF 0x20 0x0602) 0x600 0xE9 ∧
    Leaves (machine (regs 0x50 0x00 0x00 0xFF 0x21 0x0600) [(0x0600, 0xE9), (0x0601, 0xB0)])
      (regs 0xA0 0x00 0x00 0xFF 0xE0 0x0602) 0x600 0xE9 := by decide

/-- 95_test_vectors.md L24, L25, L26, L27. -/
theorem test_l24_cmp :
    Leaves (machine (regs 0x40 0x00 0x00 0xFF 0x20 0x0600) [(0x0600, 0xC9), (0x0601, 0x30)])
      (regs 0x40 0x00 0x00 0xFF 0x21 0x0602) 0x600 0xC9 ∧
    Leaves (machine (regs 0x40 0x00 0x00 0xFF 0x20 0x0600) [(0x0600, 0xC9), (0x0601, 0x40)])
      (regs 0x40 0x00 0x00 0xFF 0x23 0x0602) 0x600 0xC9 ∧
    Leaves (machine (regs 0x00 0x00 0x00 0xFF 0x20 0x0600) [(0x0600, 0xC9), (0x0601, 0x01)])
      (regs 0x00 0x00 0x00 0xFF 0xA0 0x0602) 0x600 0xC9 ∧
    Leaves (machine (regs 0x80 0x00 0x00 0xFF 0x20 0x0600) [(0x0600, 0xC9)])
      (regs 0x80 0x00 0x00 0xFF 0xA1 0x0602) 0x600 0xC9 := by decide

/-- 95_test_vectors.md L28. -/
theorem test_l28_cpx :
    Leaves (machine (regs 0x00 0x05 0x00 0xFF 0x20 0x0600) [(0x0600, 0xE0), (0x0601, 0x05)])
      (regs 0x00 0x05 0x00 0xFF 0x23 0x0602) 0x600 0xE0 := by decide

/-- 95_test_vectors.md L29. -/
theorem test_l29_cpy :
    Leaves (machine (regs 0x00 0x00 0x00 0xFF 0x20 0x0600) [(0x0600, 0xC0), (0x0601, 0x01)])
      (regs 0x00 0x00 0x00 0xFF 0xA0 0x0602) 0x600 0xC0 := by decide

/-- 95_test_vectors.md L30, L31, L32. -/
theorem test_l30_bit :
    Leaves (machine (regs 0x01 0x00 0x00 0xFF 0x20 0x0600) [(0x0010, 0x41), (0x0600, 0x24), (0x0601, 0x10)])
      (regs 0x01 0x00 0x00 0xFF 0x60 0x0602) 0x600 0x24 ∧
    Leaves (machine (regs 0x3F 0x00 0x00 0xFF 0x20 0x0600) [(0x0010, 0xC0), (0x0600, 0x24), (0x0601, 0x10)])
      (regs 0x3F 0x00 0x00 0xFF 0xE2 0x0602) 0x600 0x24 ∧
    Leaves (machine (regs 0x00 0x00 0x00 0xFF 0xE0 0x0600) [(0x0600, 0x24), (0x0601, 0x10)])
      (regs 0x00 0x00 0x00 0xFF 0x22 0x0602) 0x600 0x24 := by decide

/-- 95_test_vectors.md L33, L34. -/
theorem test_l33_asl :
    Leaves (machine (regs 0x80 0x00 0x00 0xFF 0x20 0x0600) [(0x0600, 0x0A)])
      (regs 0x00 0x00 0x00 0xFF 0x23 0x0601) 0x600 0x0A ∧
    Leaves (machine (regs 0x40 0x00 0x00 0xFF 0x20 0x0600) [(0x0600, 0x0A)])
      (regs 0x80 0x00 0x00 0xFF 0xA0 0x0601) 0x600 0x0A := by decide

/-- 95_test_vectors.md L35, L36, L37. -/
theorem test_l35_lsr :
    Leaves (machine (regs 0x03 0x00 0x00 0xFF 0x20 0x0600) [(0x0600, 0x4A)])
      (regs 0x01 0x00 0x00 0xFF 0x21 0x0601) 0x600 0x4A ∧
    Leaves (machine (regs 0x01 0x00 0x00 0xFF 0x20 0x0600) [(0x0600, 0x4A)])
      (regs 0x00 0x00 0x00 0xFF 0x23 0x0601) 0x600 0x4A ∧
    Leaves (machine (regs 0xFF 0x00 0x00 0xFF 0xA0 0x0600) [(0x0600, 0x4A)])
      (regs 0x7F 0x00 0x00 0xFF 0x21 0x0601) 0x600 0x4A := by decide

/-- 95_test_vectors.md L38, L39. -/
theorem test_l38_rol :
    Leaves (machine (regs 0x81 0x00 0x00 0xFF 0x21 0x0600) [(0x0600, 0x2A)])
      (regs 0x03 0x00 0x00 0xFF 0x21 0x0601) 0x600 0x2A ∧
    Leaves (machine (regs 0x80 0x00 0x00 0xFF 0x20 0x0600) [(0x0600, 0x2A)])
      (regs 0x00 0x00 0x00 0xFF 0x23 0x0601) 0x600 0x2A := by decide

/-- 95_test_vectors.md L40, L41. -/
theorem test_l40_ror :
    Leaves (machine (regs 0x02 0x00 0x00 0xFF 0x21 0x0600) [(0x0600, 0x6A)])
      (regs 0x81 0x00 0x00 0xFF 0xA0 0x0601) 0x600 0x6A ∧
    Leaves (machine (regs 0x01 0x00 0x00 0xFF 0x20 0x0600) [(0x0600, 0x6A)])
      (regs 0x00 0x00 0x00 0xFF 0x23 0x0601) 0x600 0x6A := by decide

/-- 95_test_vectors.md L42, L43. -/
theorem test_l42_inc :
    Leaves (machine (regs 0x00 0x00 0x00 0xFF 0x20 0x0600) [(0x0010, 0xFF), (0x0600, 0xE6), (0x0601, 0x10)])
      (regs 0x00 0x00 0x00 0xFF 0x22 0x0602) 0x10 0x00 ∧
    Leaves (machine (regs 0x00 0x00 0x00 0xFF 0x21 0x0600) [(0x0010, 0x7F), (0x0600, 0xE6), (0x0601, 0x10)])
      (regs 0x00 0x00 0x00 0xFF 0xA1 0x0602) 0x10 0x80 := by decide

/-- 95_test_vectors.md L44, L45. -/
theorem test_l44_dec :
    Leaves (machine (regs 0x00 0x00 0x00 0xFF 0x20 0x0600) [(0x0600, 0xC6), (0x0601, 0x10)])
      (regs 0x00 0x00 0x00 0xFF 0xA0 0x0602) 0x10 0xFF ∧
    Leaves (machine (regs 0x00 0x00 0x00 0xFF 0x20 0x0600) [(0x0010, 0x01), (0x0600, 0xC6), (0x0601, 0x10)])
      (regs 0x00 0x00 0x00 0xFF 0x22 0x0602) 0x10 0x00 := by decide

/-- 95_test_vectors.md L46. -/
theorem test_l46_inx :
    Leaves (machine (regs 0x00 0xFF 0x00 0xFF 0x21 0x0600) [(0x0600, 0xE8)])
      (regs 0x00 0x00 0x00 0xFF 0x23 0x0601) 0x600 0xE8 := by decide

/-- 95_test_vectors.md L47. -/
theorem test_l47_iny :
    Leaves (machine (regs 0x00 0x00 0x00 0xFF 0x20 0x0600) [(0x0600, 0xC8)])
      (regs 0x00 0x00 0x01 0xFF 0x20 0x0601) 0x600 0xC8 := by decide

/-- 95_test_vectors.md L48. -/
theorem test_l48_dex :
    Leaves (machine (regs 0x00 0x00 0x00 0xFF 0x20 0x0600) [(0x0600, 0xCA)])
      (regs 0x00 0xFF 0x00 0xFF 0xA0 0x0601) 0x600 0xCA := by decide

/-- 95_test_vectors.md L49. -/
theorem test_l49_dey :
    Leaves (machine (regs 0x00 0x00 0x01 0xFF 0x20 0x0600) [(0x0600, 0x88)])
      (regs 0x00 0x00 0x00 0xFF 0x22 0x0601) 0x600 0x88 := by decide

/-- 95_test_vectors.md L50. -/
theorem test_l50_tax :
    Leaves (machine (regs 0x90 0x00 0x00 0xFF 0x20 0x0600) [(0x0600, 0xAA)])
      (regs 0x90 0x90 0x00 0xFF 0xA0 0x0601) 0x600 0xAA := by decide

/-- 95_test_vectors.md L51. -/
theorem test_l51_tay :
    Leaves (machine (regs 0x00 0x00 0x00 0xFF 0x20 0x0600) [(0x0600, 0xA8)])
      (regs 0x00 0x00 0x00 0xFF 0x22 0x0601) 0x600 0xA8 := by decide

/-- 95_test_vectors.md L52. -/
theorem test_l52_txa :
    Leaves (machine (regs 0x80 0x01 0x00 0xFF 0xA0 0x0600) [(0x0600, 0x8A)])
      (regs 0x01 0x01 0x00 0xFF 0x20 0x0601) 0x600 0x8A := by decide

/-- 95_test_vectors.md L53. -/
theorem test_l53_tya :
    Leaves (machine (regs 0x00 0x00 0xFF 0xFF 0x20 0x0600) [(0x0600, 0x98)])
      (regs 0xFF 0x00 0xFF 0xFF 0xA0 0x0601) 0x600 0x98 := by decide

/-- 95_test_vectors.md L54. -/
theorem test_l54_tsx :
    Leaves (machine (regs 0x00 0x00 0x00 0xFD 0x20 0x0600) [(0x0600, 0xBA)])
      (regs 0x00 0xFD 0x00 0xFD 0xA0 0x0601) 0x600 0xBA := by decide

/-- 95_test_vectors.md L55. -/
theorem test_l55_txs :
    Leaves (machine (regs 0x00 0x00 0x00 0xFF 0x20 0x0600) [(0x0600, 0x9A)])
      (regs 0x00 0x00 0x00 0x00 0x20 0x0601) 0x600 0x9A := by decide

/-- 95_test_vectors.md L56. -/
theorem test_l56_clc :
    Leaves (machine (regs 0x00 0x00 0x00 0xFF 0x21 0x0600) [(0x0600, 0x18)])
      (regs 0x00 0x00 0x00 0xFF 0x20 0x0601) 0x600 0x18 := by decide

/-- 95_test_vectors.md L57. -/
theorem test_l57_sec :
    Leaves (machine (regs 0x00 0x00 0x00 0xFF 0x20 0x0600) [(0x0600, 0x38)])
      (regs 0x00 0x00 0x00 0xFF 0x21 0x0601) 0x600 0x38 := by decide

/-- 95_test_vectors.md L58. -/
theorem test_l58_cli :
    Leaves (machine (regs 0x00 0x00 0x00 0xFF 0x24 0x0600) [(0x0600, 0x58)])
      (regs 0x00 0x00 0x00 0xFF 0x20 0x0601) 0x600 0x58 := by decide

/-- 95_test_vectors.md L59. -/
theorem test_l59_sei :
    Leaves (machine (regs 0x00 0x00 0x00 0xFF 0x20 0x0600) [(0x0600, 0x78)])
      (regs 0x00 0x00 0x00 0xFF 0x24 0x0601) 0x600 0x78 := by decide

/-- 95_test_vectors.md L60. -/
theorem test_l60_clv :
    Leaves (machine (regs 0x00 0x00 0x00 0xFF 0x60 0x0600) [(0x0600, 0xB8)])
      (regs 0x00 0x00 0x00 0xFF 0x20 0x0601) 0x600 0xB8 := by decide

/-- 95_test_vectors.md L61. -/
theorem test_l61_cld :
    Leaves (machine (regs 0x00 0x00 0x00 0xFF 0x28 0x0600) [(0x0600, 0xD8)])
      (regs 0x00 0x00 0x00 0xFF 0x20 0x0601) 0x600 0xD8 := by decide

/-- 95_test_vectors.md L62. -/
theorem test_l62_sed :
    Leaves (machine (regs 0x00 0x00 0x00 0xFF 0x20 0x0600) [(0x0600, 0xF8)])
      (regs 0x00 0x00 0x00 0xFF 0x28 0x0601) 0x600 0xF8 := by decide

/-- 95_test_vectors.md L63. -/
theorem test_l63_nop :
    Leaves (machine (regs 0x11 0x00 0x00 0xFF 0xFF 0x0600) [(0x0600, 0xEA)])
      (regs 0x11 0x00 0x00 0xFF 0xFF 0x0601) 0x600 0xEA := by decide

/-! ### The arbiter and the host -/

/-- 95_test_vectors.md V-X1: the illegal opcode 0xFF halts the block; no request follows. -/
theorem test_vx1_illegal_opcode :
    outcome (step (machine (regs 0x00 0x00 0x00 0xFF 0x20 0x0600) [(0x0600, 0xFF)])) =
        some (regs 0x00 0x00 0x00 0xFF 0x20 0x0601, .halted 0xFF, [.fetch 0x0600]) ∧
      outcome (runCycles 3 (machine (regs 0x00 0x00 0x00 0xFF 0x20 0x0600) [(0x0600, 0xFF)])) =
        some (regs 0x00 0x00 0x00 0xFF 0x20 0x0601, .halted 0xFF, [.fetch 0x0600]) := by decide

/-- The host's move of 95_test_vectors.md V-X2 after four cycles. -/
def resetAfterFourCycles (s : State) : Result := (runCycles 4 s).andThen fun t => .next (hardReset noWrite t)

/-- 95_test_vectors.md V-X2: a hard reset in the middle of JSR keeps the write and the registers. -/
theorem test_vx2_hard_reset_in_jsr :
    outcome (resetAfterFourCycles
        (machine (regs 0x00 0x00 0x00 0xFF 0x20 0x0600) [(0x0600, 0x20), (0x0601, 0x34), (0x0602, 0x12)])) =
      some (regs 0x00 0x00 0x00 0xFE 0x20 0x0602, .fetch,
        [.fetch 0x0600, .read 0x0601, .read 0x01FF, .write 0x01FF 0x06]) ∧
    left 0x01FF (resetAfterFourCycles
        (machine (regs 0x00 0x00 0x00 0xFF 0x20 0x0600) [(0x0600, 0x20), (0x0601, 0x34), (0x0602, 0x12)])) =
      some (regs 0x00 0x00 0x00 0xFE 0x20 0x0602, 0x06) := by decide

/-- The state of 95_test_vectors.md V-X3: LDA #$01, STA $10. -/
def vx3 : State :=
  machine (regs 0x00 0x00 0x00 0xFF 0x20 0x0600) [(0x0600, 0xA9), (0x0601, 0x01), (0x0602, 0x85), (0x0603, 0x10)]

/-- 95_test_vectors.md V-X3, cycle by cycle: boundaries after cycles 2 and 5, A written in cycle 2. -/
theorem test_vx3_boundaries :
    outcome (runCycles 2 vx3) =
        some (regs 0x01 0x00 0x00 0xFF 0x20 0x0602, .fetch, [.fetch 0x0600, .read 0x0601]) ∧
      outcome (runCycles 5 vx3) = some (regs 0x01 0x00 0x00 0xFF 0x20 0x0604, .fetch,
        [.fetch 0x0600, .read 0x0601, .fetch 0x0602, .read 0x0603, .write 0x0010 0x01]) := by decide

/-- 45_arbiter.md R246: a host write in phase Fetch forces bit 5 of P; 70_reset_and_hazards.md R283: the boot duty reads the
reset vector, low byte first. -/
theorem test_host_moves :
    outcome (hostWrite { a := some 0x11, x := none, y := none, s := none, pc := none, p := some 0x00 } State.reset) =
        some (regs 0x11 0x00 0x00 0x00 0x20 0x0000, .fetch, []) ∧
      outcome (hostBoot (machine (regs 0x00 0x00 0x00 0x00 0x20 0x0000) [(0xFFFC, 0x34), (0xFFFD, 0x12)])) =
        some (regs 0x00 0x00 0x00 0x00 0x20 0x1234, .fetch, []) := by decide

/-- Entry 19 (the model's choice): `hostBoot` takes plain memory's bytes inside a host region too, and makes no request. -/
theorem test_host_boot_in_host_region :
    outcome (hostBoot { machine (regs 0x00 0x00 0x00 0x00 0x20 0x0000) [(0xFFFC, 0x34), (0xFFFD, 0x12)] with
      hostRegions := [{ first := 0xE000, last := 0xFFFF }] }) =
    some (regs 0x00 0x00 0x00 0x00 0x20 0x1234, .fetch, []) := by decide

/-- 10_state.md R42 and entry 2: what the model's reset state is. -/
theorem test_reset :
    State.reset.regs = regs 0x00 0x00 0x00 0x00 0x20 0x0000 ∧ State.reset.phase = .fetch ∧
      State.reset.wellFormed = true := by decide

/-- A word stored by `withFetchWord` is what the next step runs: LDA #$5A from reset, and JMP $1234 stored across the end of
the address space. -/
theorem test_withFetchWord :
    Runs (State.reset.withFetchWord 16 0x5AA9) (regs 0x5A 0x00 0x00 0x00 0x20 0x0002) [.fetch 0x0000, .read 0x0001] ∧
      Runs ((machine (regs 0x00 0x00 0x00 0x00 0x20 0xFFFE) []).withFetchWord 24 0x12344C)
        (regs 0x00 0x00 0x00 0x00 0x20 0x1234) [.fetch 0xFFFE, .read 0xFFFF, .read 0x0000] := by decide

/-- 10_state.md R26: bit 5 of P reads as 1 even where it is stored as 0, and PHP pushes it (R30). -/
theorem test_unused_bit :
    (regs 0 0 0 0 0x00 0).readP = 0x20 ∧ (regs 0 0 0 0 0x00 0).pushedP = 0x30 ∧
      ((regs 0 0 0 0 0x00 0).setFlag .z true).p = 0x22 ∧ ((regs 0 0 0 0 0x00 0).pullP 0xFF).p = 0xEF := by
  decide

/-- 92_eei_decisions.md D8: with P.D = 1, ADC and SBC take the open parameters, whatever they are. -/
theorem test_decimal_results :
    adcResult true 0x19 0x28 true = Config.decimalAdc 0x19 0x28 true ∧
      sbcResult true 0x19 0x28 true = Config.decimalSbc 0x19 0x28 true := ⟨rfl, rfl⟩

/-- 92_eei_decisions.md D17: a read in a host region is the open parameter of the history and the address; a write there is
recorded, and leaves plain memory alone. -/
theorem test_host_region :
    let s : State := { State.reset with hostRegions := [{ first := 0xD000, last := 0xDFFF }] }
    s.answer 0xD000 = Config.busRead [] 0xD000 ∧ s.answer 0xE000 = 0x00 ∧
      (s.busWrite 0xDFFF 0x55).mem = [] ∧ (s.busWrite 0xE000 0x55).mem = [(0xE000, 0x55)] := ⟨rfl, rfl, rfl, rfl⟩

/-- 20_memory.md R51: memory keeps its canonical form over writes in and out of order. -/
theorem test_memory_canonical :
    (Memory.write (Memory.write (Memory.write [] 0x20 0x01) 0x10 0x02) 0x20 0x00) = [(0x10, 0x02)] ∧
      Memory.wf [(0x10, 0x02), (0xFFFF, 0x01)] = true ∧ Memory.wf [(0x10000, 0x02)] = false ∧
      Memory.wf [(0x10, 0x00)] = false ∧ Memory.wf [(0x20, 0x01), (0x10, 0x01)] = false := by decide

/-! ### Witnesses: states and operands that meet the hypotheses of each obligation -/

/-- LDA #$5A at 0x0600. -/
def sLda : State := machine (regs 0x00 0x00 0x00 0xFF 0x20 0x0600) [(0x0600, 0xA9), (0x0601, 0x5A)]

/-- An illegal opcode at 0x0600. -/
def sIllegal : State := machine (regs 0x00 0x00 0x00 0xFF 0x20 0x0600) [(0x0600, 0x02)]

/-- JMP $1234 across the end of the address space. -/
def sWrap : State :=
  machine (regs 0x00 0x00 0x00 0xFF 0x20 0xFFFE) [(0x0000, 0x12), (0xFFFE, 0x4C), (0xFFFF, 0x34)]

/-- Latches that hold an address. -/
def latchesOf (ea : Word) : Latches :=
  { adl := 0, adh := 0, ptr := 0, base := 0, ea := ea, data := 0, res := 0, off := 0 }

/-- A state in phase Exec at the write of STA $10: cycle 2, address latched. -/
def sExecWrite : State := { sLda with
  phase := .exec { entry := ⟨.sta, .zp⟩, t := 2, writeLike := true, latches := latchesOf 0x0010 } }

/-- A state whose machine is at its first cycle, of LDA #. -/
def sExecRead : State := { sLda with
  phase := .exec { entry := ⟨.lda, .imm⟩, t := 1, writeLike := false, latches := latchesOf 0x0000 } }

/-- The same state with other memory, history and host addresses. -/
def sExecRead' : State := { sExecRead with mem := [], hostRegions := [{ first := 0, last := 0xFFFF }], history := [.read 0] }

/-- Decimal mode. -/
def sDecimal : State := machine (regs 0x19 0x00 0x00 0xFF 0x28 0x0600) [(0x0600, 0x69), (0x0601, 0x28)]

theorem witness_EncodeOfDecodeIsTheBytes : decode [0xAD, 0x34, 0x12, 0xEA] = .ok (.ldaAbs 0x1234) [0xEA] := by decide

theorem witness_ExactlyTheListedOpcodesAreIllegal :
    (0x02 : Byte) ∈ illegalOpcodes ∧ (0xFF : Byte) ∈ illegalOpcodes ∧ (0x00 : Byte) ∉ illegalOpcodes ∧
      (0xFE : Byte) ∉ illegalOpcodes := by decide

theorem witness_AssembledBranchesReachTheirTarget :
    branchOffset 0x0200 0x0281 = some 0x7F ∧ branchOffset 0x0200 0x0182 = some 0x80 ∧ branchOffset 0x0200 0x0282 = none ∧
      branchOffset 0x0200 0x0181 = none := by decide

theorem witness_StepRunsTheDecodedInstruction :
    sLda.phase = .fetch ∧ decode sLda.fetchedBytes = .ok (.ldaImm 0x5A) [0x00] := by decide

theorem witness_StepRunsTheInstructionInMemory :
    sWrap.phase = .fetch ∧ sWrap.plain ∧ ∀ k, k < (Instr.jmpAbs 0x1234).length →
      (encode (.jmpAbs 0x1234))[k]? = some (sWrap.mem.read (sWrap.regs.pc + BitVec.ofNat 16 k).toNat) :=
  ⟨rfl, rfl, by decide⟩

theorem witness_IllegalOpcodeHaltsTheBlock :
    sIllegal.phase = .fetch ∧ byteAnswered sIllegal sIllegal.history sIllegal.regs.pc ∈ illegalOpcodes := by decide

theorem witness_HaltedStaysHalted : ({ sLda with phase := .halted 0x02 } : State).phase = .halted 0x02 := rfl

theorem witness_StepIsTheArbitersCycles : sLda.phase = .fetch := rfl

theorem witness_EveryInstructionEndsWithinSevenCycles : sLda.phase = .fetch ∧ sIllegal.phase = .fetch := ⟨rfl, rfl⟩

theorem witness_FetchCycleCompilesTheOpcode :
    sLda.phase = .fetch ∧ entryOf 0xA9 = some ⟨.lda, .imm⟩ ∧ entryOf 0x00 = some ⟨.brk, .imp⟩ ∧ entryOf 0xFF = none := by
  decide

theorem witness_FirstStepReadsPc : ∃ t, sLda.phase = .fetch ∧ cycle sLda = .next t ∧ inExec t :=
  ⟨_, rfl, rfl, _, rfl⟩

theorem witness_OneRequestPerCycle_write :
    ∃ t, cycle sExecWrite = .next t ∧ request sExecWrite = some (.write 0x0010 0x00) ∧
      ∀ w v, request sExecWrite = some (.write w v) → w.toNat ≠ 0x0011 :=
  ⟨_, rfl, rfl, by rintro w v ⟨⟩; decide⟩

theorem witness_OneRequestPerCycle_read :
    ∃ t, cycle sLda = .next t ∧ ∀ w v, request sLda = some (.write w v) → w.toNat ≠ 0x0600 :=
  ⟨_, rfl, by rintro w v ⟨⟩⟩

theorem witness_byteStored : sLda.mem.wf = true ∧ sLda.hostAnswers 0x0000 = false ∧ sLda.hostAnswers 0xFFFF = false := by
  decide

theorem witness_ExecCycleDependsOnRegistersAndAnswer :
    inExec sExecRead ∧ sExecRead'.phase = sExecRead.phase ∧ sExecRead'.regs = sExecRead.regs ∧
      ∃ t, advance 0x5A sExecRead = .next t :=
  ⟨⟨_, rfl⟩, rfl, rfl, _, rfl⟩

theorem witness_HostWritesRegistersInFetchOnly :
    sLda.phase = .fetch ∧ sExecRead.phase ≠ .fetch ∧ noWrite.p = none ∧ ({ noWrite with p := some 0x00 } : HostWrite).p = some 0x00 :=
  ⟨rfl, by decide, rfl, rfl⟩

theorem witness_HardResetDiscardsTheMachineOnly :
    noWrite.p = none ∧ ({ noWrite with p := some 0xFF } : HostWrite).p = some 0xFF := ⟨rfl, rfl⟩

theorem witness_AbsoluteModesAddTheIndex_x :
    (MemOperand.abx 0x12FF = .abx 0x12FF ∧ (0x00 : Byte) = sLda.regs.x) ∧ hi (0x12FF : Word) = hi (0x12FF : Word) := by
  decide

theorem witness_AbsoluteModesAddTheIndex_y :
    (MemOperand.aby 0xFFFF = .aby 0xFFFF ∧ (0x01 : Byte) = (regs 0 0 1 0 0x20 0).y) ∧
      hi (0xFFFF : Word) ≠ hi (BitVec.ofNat 16 ((0xFFFF + 1) % 65536)) := by decide

theorem witness_LoadsWriteTheirRegister :
    (Instr.ldaImm 0x80).op = .lda ∧ (Instr.ldxZpy 0xFF).op = .ldx ∧ (Instr.ldyAbx 0xFFFF).op = .ldy := by decide

theorem witness_StoresWriteTheirByte :
    (Instr.staIzy 0xFF).op ∈ writeOps ∧ (Instr.staIzy 0xFF).operand = .mem (.izy 0xFF) ∧
      (Instr.stxZpy 0x80).op ∈ writeOps ∧ (Instr.stxZpy 0x80).operand = .mem (.zpy 0x80) ∧
      (Instr.styAbs 0xFFFF).op ∈ writeOps ∧ (Instr.styAbs 0xFFFF).operand = .mem (.abs 0xFFFF) := by decide

theorem witness_StoresWriteTheirByte_unfixed :
    (MemOperand.abx 0x12FF = .abx 0x12FF ∨ MemOperand.abx 0x12FF = .aby 0x12FF) ∧ MemOperand.izy 0xFF = .izy 0xFF := by decide

theorem witness_LogicalOperationsWriteA :
    (Instr.andImm 0x0F).op = .and ∧ (Instr.oraIzx 0xFF).op = .ora ∧ (Instr.eorAby 0xFFFF).op = .eor := by decide

theorem witness_AdcAddsWithCarry :
    (Instr.adcImm 0x28).op = .adc ∧ sLda.regs.flag .d = false ∧ sDecimal.regs.flag .d = true := by decide

theorem witness_SbcSubtractsWithBorrow :
    (Instr.sbcImm 0x28).op = .sbc ∧ sLda.regs.flag .d = false ∧ sDecimal.regs.flag .d = true := by decide

theorem witness_ComparisonsWriteFlagsOnly :
    (Instr.cmpImm 0x80).op = .cmp ∧ (Instr.cpxZp 0xFF).op = .cpx ∧ (Instr.cpyAbs 0xFFFF).op = .cpy := by decide

theorem witness_BitTestsTheOperand : (Instr.bitZp 0x10).op = .bit ∧ (Instr.bitAbs 0x2000).op = .bit := by decide

theorem witness_ShiftsAndRotates :
    (Instr.aslAcc.op = .asl ∧ Instr.aslAcc.operand = .acc) ∧ (Instr.rorAcc.op = .ror ∧ Instr.rorAcc.operand = .acc) ∧
      ((Instr.lsrZp 0xFF).op = .lsr ∧ (Instr.lsrZp 0xFF).operand = .mem (.zp 0xFF)) ∧
      (Instr.rolAbx 0xFFFF).op = .rol ∧ (Instr.rolAbx 0xFFFF).operand = .mem (.abx 0xFFFF) := by decide

theorem witness_MemoryIncrementAndDecrement :
    ((Instr.incZp 0x00).op = .inc ∧ (Instr.incZp 0x00).operand = .mem (.zp 0x00)) ∧
      (Instr.decAbx 0xFFFF).op = .dec ∧ (Instr.decAbx 0xFFFF).operand = .mem (.abx 0xFFFF) := by decide

theorem witness_IndexRegistersCount :
    (Instr.inx = .inx ∨ Instr.inx = .iny ∨ Instr.inx = .dex ∨ Instr.inx = .dey) ∧
      (Instr.dey = .inx ∨ Instr.dey = .iny ∨ Instr.dey = .dex ∨ Instr.dey = .dey) := by decide

theorem witness_TransfersCopyARegister :
    (Instr.tax = .tax ∨ Instr.tax = .tay) ∧ (Instr.tsx = .tax ∨ Instr.tsx = .tsx) ∧ (Instr.tya = .txa ∨ Instr.tya = .tya) := by
  decide

theorem witness_PushesWriteAtTheStackAddress :
    (Instr.pha = .pha ∨ Instr.pha = .php) ∧ (Instr.php = .pha ∨ Instr.php = .php) := by decide

theorem witness_PullsReadAboveTheStackAddress :
    (Instr.pla = .pla ∨ Instr.pla = .plp) ∧ (Instr.plp = .pla ∨ Instr.plp = .plp) := by decide

theorem witness_JsrPushesTheReturnAddress :
    let s := machine (regs 0x00 0x00 0x00 0x00 0x20 0x0600) [(0x0600, 0x20), (0x0601, 0x34), (0x0602, 0x12)]
    s.plain ∧ s.mem.read (s.regs.pc + 2).toNat = hi 0x1234 ∧ s.regs.pc + 2 ≠ cat 0x01 s.regs.s ∧
      s.regs.pc + 2 ≠ cat 0x01 (s.regs.s - 1) := ⟨rfl, rfl, by decide, by decide⟩

theorem witness_BranchesTestTheirFlag_notTaken :
    branchTest (Instr.bmi 0x10).op = some (.n, true) ∧ (Instr.bmi 0x10).operand = .rel 0x10 ∧ sLda.regs.flag .n ≠ true := by
  decide

theorem witness_BranchesTestTheirFlag_samePage :
    branchTest (Instr.bne 0x7F).op = some (.z, false) ∧ (Instr.bne 0x7F).operand = .rel 0x7F ∧ sLda.regs.flag .z = false ∧
      hi (BitVec.ofInt 16 (((sLda.regs.pc + 2).toNat : Int) + (0x7F : Byte).toInt)) = hi (sLda.regs.pc + 2) := by decide

theorem witness_BranchesTestTheirFlag_crossing :
    branchTest (Instr.bcc 0x80).op = some (.c, false) ∧ (Instr.bcc 0x80).operand = .rel 0x80 ∧ sLda.regs.flag .c = false ∧
      hi (BitVec.ofInt 16 (((sLda.regs.pc + 2).toNat : Int) + (0x80 : Byte).toInt)) ≠ hi (sLda.regs.pc + 2) := by decide

theorem witness_RtsAfterJsrReturns :
    ∃ t, sLda.mem.wf = true ∧ sLda.plain ∧ exec (.jsr 0x1234) sLda = .next t := ⟨_, by decide, rfl, rfl⟩

theorem witness_RtiAfterBrkReturns :
    ∃ t, sLda.mem.wf = true ∧ sLda.plain ∧ exec (.brk 0xEA) sLda = .next t := ⟨_, by decide, rfl, rfl⟩

theorem witness_PlpAfterPhpRestoresStatus :
    ∃ t, sLda.mem.wf = true ∧ sLda.plain ∧ exec .php sLda = .next t := ⟨_, by decide, rfl, rfl⟩

theorem witness_PlpAfterPhpRestoresStatus_sides :
    (sLda.regs.flag .b = false ∧ sLda.regs.p.getLsbD 5 = true) ∧ (regs 0 0 0 0 0x30 0).flag .b = true ∧
      (regs 0 0 0 0 0x00 0).p.getLsbD 5 = false := by decide

theorem witness_OnlyItsWritersChangeAFlag :
    (Instr.staZp 0x10).op ∉ flagWriters .n ∧ (Instr.ldaImm 0x10).op ∉ flagWriters .c ∧ Instr.sei.op ∉ flagWriters .d ∧
      Instr.php.op ∉ flagWriters .b ∧ Instr.plp.op ∉ flagWriters .u ∧ (Instr.cmpImm 0).op ∉ flagWriters .v ∧
      Instr.cli.op ∉ flagWriters .z ∧ Instr.rts.op ∉ flagWriters .i := by decide

theorem witness_OnlyItsWritersChangeARegister :
    Instr.tax.op ∉ aWriters ∧ Instr.txs.op ∉ xWriters ∧ Instr.tya.op ∉ yWriters ∧ Instr.tsx.op ∉ sWriters := by decide

theorem witness_NoWriteClearsTheUnusedBit : ∃ t, exec .rti sLda = .next t := ⟨_, rfl⟩

theorem witness_OnlyStoringInstructionsChangeMemory :
    (Instr.aslAcc.op ∉ writeOps ∧ Instr.aslAcc.op ∉ pushOps ∧ (Instr.aslAcc.op ∈ rmwOps → Instr.aslAcc.operand = .acc)) ∧
      (Instr.rti.op ∉ writeOps ∧ Instr.rti.op ∉ pushOps ∧ (Instr.rti.op ∈ rmwOps → Instr.rti.operand = .acc)) := by decide

theorem witness_PushesStayInPageOne :
    (∀ i ∈ [Instr.pha, .php, .jsr 0x1234, .brk 0], i.op ∈ pushOps) ∧ 0x00FF < 0x0100 ∧ 0x01FF < 0x0200 := by decide

theorem witness_ZeroPageStoresStayInPageZero :
    (Instr.incZp 0xFF).operand.mode = .zp ∧ (Instr.staZpx 0xFF).operand.mode = .zpx ∧
      (Instr.stxZpy 0xFF).operand.mode = .zpy ∧ 0x00FF < 0x0100 := by decide

theorem witness_BusReadAfterWrite :
    sLda.mem.wf = true ∧ sLda.hostAnswers 0xFFFF = false ∧ sLda.hostAnswers 0x0000 = false := by decide

theorem witness_StepKeepsWellFormed : ∃ t, sLda.wellFormed = true ∧ step sLda = .next t := ⟨_, by decide, rfl⟩

theorem witness_CycleKeepsWellFormed :
    ∃ t, sExecWrite.wellFormed = true ∧ cycle sExecWrite = .next t := ⟨_, by decide, rfl⟩

theorem witness_WellFormedStatesNeverStop :
    sLda.wellFormed = true ∧ sExecRead.wellFormed = true ∧ ({ sLda with phase := .halted 0x02 } : State).wellFormed = true := by
  decide

theorem witness_ReachableStatesAreWellFormed : Reachable State.reset := .powerUp (regs 0 0 0 0 0 0) [] [] rfl

theorem witness_PowerUpIsWellFormedInFetch : Memory.wf [(0xFFFC, 0x34), (0xFFFD, 0x12)] = true := by decide

end Sys2Proof.Tests
end

section
/-! Which opcodes the decoder, the compiler and the arbiter take (30_encoding.md R70 to R78): the table and the list of
illegal opcodes share no byte and leave none out, and every entry of the table is read and assembled from two operand bytes. -/

namespace Sys2Proof

open Sys2Proof.Machine Sys2Proof.Claims

/-! ### The Instruction Table -/

set_option maxRecDepth 2000 in
/-- Every row's mode is one its operation has (R75). -/
theorem row_wellFormed : ∀ row ∈ instructionTable, Entry.wellFormed ⟨row.op, row.mode⟩ = true := by
  decide

set_option maxRecDepth 8000 in
/-- No two rows have the same operation and mode, so an entry determines its opcode (R75). -/
theorem instructionTable_entries_nodup : (instructionTable.map fun row => Entry.mk row.op row.mode).Nodup := by
  decide

/-- The entry of an opcode is that of a row with this opcode. -/
theorem exists_row_of_entryOf_eq_some {op : Byte} {e : Entry} (h : entryOf op = some e) :
    ∃ row ∈ instructionTable, row.opcode = op ∧ Entry.mk row.op row.mode = e := by
  obtain ⟨row, hfind, hentry⟩ := Option.map_eq_some_iff.mp h
  exact ⟨row, List.mem_of_find?_eq_some hfind, by simpa using List.find?_some hfind, hentry⟩

theorem entryOf_wellFormed {op : Byte} {e : Entry} (h : entryOf op = some e) : e.wellFormed = true := by
  obtain ⟨row, hrow, -, rfl⟩ := exists_row_of_entryOf_eq_some h
  exact row_wellFormed row hrow

/-- Two opcodes with the same entry are one opcode. -/
theorem entryOf_injective {op op' : Byte} {e : Entry} (h : entryOf op = some e) (h' : entryOf op' = some e) :
    op = op' := by
  obtain ⟨row, hrow, rfl, hentry⟩ := exists_row_of_entryOf_eq_some h
  obtain ⟨row', hrow', rfl, hentry'⟩ := exists_row_of_entryOf_eq_some h'
  rw [List.inj_on_of_nodup_map instructionTable_entries_nodup hrow hrow' (hentry.trans hentry'.symm)]

/-- The 105 listed opcodes are the byte values without an entry, in rising order (R76). -/
theorem filter_entryOf_isNone_eq_illegalOpcodes :
    ((List.range 256).map (BitVec.ofNat 8)).filter (fun op => (entryOf op).isNone) = illegalOpcodes := by
  decide

theorem mem_illegalOpcodes_iff (op : Byte) : op ∈ illegalOpcodes ↔ entryOf op = none := by
  have hop : op ∈ (List.range 256).map (BitVec.ofNat 8) :=
    List.mem_map.mpr ⟨op.toNat, List.mem_range.mpr op.isLt, by simp⟩
  rw [← filter_entryOf_isNone_eq_illegalOpcodes, List.mem_filter, Option.isNone_iff_eq_none]
  exact and_iff_right hop

/-! ### Operand assembly -/

/-- An operation and an operand form are assembled, into the instruction that has both, exactly where the operation has
the form (R75). -/
theorem assemble_eq (op : Op) (o : Operand) :
    (assemble op o).map (fun i => (i.op, i.operand)) = if o.wellFormedFor op then some (op, o) else none := by
  cases o with
  | mem m => cases m <;> cases op <;> rfl
  | imp | acc | pad b | imm v | rel off => cases op <;> rfl

theorem exists_instr_of_wellFormedFor {op : Op} {o : Operand} (h : o.wellFormedFor op = true) :
    ∃ i, assemble op o = some i ∧ i.op = op ∧ i.operand = o := by
  have hspec := assemble_eq op o
  rw [if_pos h] at hspec
  obtain ⟨i, hi, hparts⟩ := Option.map_eq_some_iff.mp hspec
  obtain ⟨hop, ho⟩ := Prod.mk.inj hparts
  exact ⟨i, hi, hop, ho⟩

/-- Two bytes are enough for the operand of every entry; the form read has the entry's mode (R70, R71). -/
theorem takeOperand_of_two_bytes (e : Entry) (b1 b2 : Byte) (rest : List Byte) :
    ∃ o tail, takeOperand e (b1 :: b2 :: rest) = some (o, tail) ∧ o.mode = e.mode ∧ o.padFits e.op = true := by
  obtain ⟨op, mode⟩ := e
  cases mode with
  | imp => cases op <;> exact ⟨_, _, rfl, rfl, rfl⟩
  | acc | imm | zp | zpx | zpy | izx | izy | rel | abs | abx | aby | ind => exact ⟨_, _, rfl, rfl, rfl⟩

/-! ### The decoder, the compiler and the arbiter on an opcode -/

theorem decode_of_entryOf_eq_none {op : Byte} (h : entryOf op = none) (rest : List Byte) :
    decode (op :: rest) = .error (.illegalOpcode op) := by
  simp [decode, h]

/-- An opcode with an entry decodes with any two bytes after it, to an instruction of this opcode. -/
theorem exists_decode_eq_ok_of_entryOf_eq_some {op : Byte} {e : Entry} (h : entryOf op = some e) (b1 b2 : Byte)
    (rest : List Byte) : ∃ i tail, decode (op :: b1 :: b2 :: rest) = .ok i tail ∧ i.opcode = op := by
  obtain ⟨o, tail, htake, hmode, hpad⟩ := takeOperand_of_two_bytes e b1 b2 rest
  have hform : o.wellFormedFor e.op = true := by
    simp [Operand.wellFormedFor, hmode, hpad, entryOf_wellFormed h]
  obtain ⟨i, hi, hop, ho⟩ := exists_instr_of_wellFormedFor hform
  have hentry : i.entry = e := by simp [Instr.entry, hop, ho, hmode]
  refine ⟨i, tail, by simp [decode, h, htake, hi], ?_⟩
  exact entryOf_injective (entryOf_opcode i) (hentry ▸ h)

theorem compile_eq_none_of_entryOf_eq_none {op : Byte} (h : entryOf op = none) (l : Latches) : compile l op = none := by
  simp [compile, h]

theorem compile_eq_some_of_entryOf_eq_some {op : Byte} {e : Entry} (h : entryOf op = some e) (l : Latches) :
    compile l op = some (.fresh e l) := by
  simp [compile, h]

/-- Where the fetched byte has no entry, the arbiter steps over it and halts (45_arbiter.md R241, R243). -/
theorem advance_of_entryOf_eq_none {op : Byte} (h : entryOf op = none) {s : State} (hs : s.phase = .fetch) :
    advance op s = .next ((s.mapRegs RegFile.incPc).setPhase (.halted op)) := by
  simp [advance, hs, compile_eq_none_of_entryOf_eq_none h]

/-- Settles O3: an opcode is listed exactly where the table has no entry for it, and each of decoder, compiler and arbiter
looks at the entry alone. -/
theorem exactlyTheListedOpcodesAreIllegal : Obligations.ExactlyTheListedOpcodesAreIllegal := by
  unfold Obligations.ExactlyTheListedOpcodesAreIllegal
  refine ⟨rfl, fun op b1 b2 rest => ⟨fun hillegal => ?_, fun hlegal => ?_⟩⟩
  · have hnone := (mem_illegalOpcodes_iff op).mp hillegal
    exact ⟨decode_of_entryOf_eq_none hnone rest, compile_eq_none_of_entryOf_eq_none hnone,
      fun s hs => ⟨_, advance_of_entryOf_eq_none hnone hs, rfl, rfl⟩⟩
  · rw [mem_illegalOpcodes_iff] at hlegal
    obtain ⟨e, he⟩ := Option.ne_none_iff_exists'.mp hlegal
    exact ⟨exists_decode_eq_ok_of_entryOf_eq_some he b1 b2 rest,
      fun l => ⟨_, compile_eq_some_of_entryOf_eq_some he l⟩⟩

end Sys2Proof
end

section
/-! Encoding lines (40_operations.md R102 to R140): a line is the operation's rows of the Instruction Table, whose cycles
are the composed cycle counts; what is left of a line is how many requests its instructions make. -/

namespace Sys2Proof

open Sys2Proof.Machine Sys2Proof.Claims

/-- The rows of the Instruction Table for an operation, as (opcode, mode, cycles). -/
def tableLine (op : Op) : List (Byte × Mode × Nat) :=
  (instructionTable.filter fun row => row.op = op).map fun row => (row.opcode, row.mode, row.cycles)

theorem mem_tableLine {op : Op} {e : Byte × Mode × Nat} :
    e ∈ tableLine op ↔ ∃ row ∈ instructionTable, row.op = op ∧ (row.opcode, row.mode, row.cycles) = e := by
  simp [tableLine, and_assoc]

set_option maxRecDepth 8000 in
/-- The composed cycle counts are the table's (R195). -/
theorem composedCycles_eq_cycles {i : Instr} {row : Row} (hrow : row ∈ instructionTable) (hop : i.op = row.op)
    (hmode : i.operand.mode = row.mode) : composedCycles i = row.cycles := by
  simp only [composedCycles, hop, hmode]
  clear hop hmode
  revert row
  decide

/-- The row of an instruction's opcode names its operation, its mode and its composed cycle count (R72, R195). -/
theorem mem_instructionTable (i : Instr) :
    ⟨i.opcode, i.op, i.operand.mode, composedCycles i⟩ ∈ instructionTable := by
  obtain ⟨row, hrow, hopcode, hentry⟩ := exists_row_of_entryOf_eq_some (entryOf_opcode i)
  obtain ⟨hop, hmode⟩ := Entry.mk.inj hentry
  rwa [composedCycles_eq_cycles hrow hop.symm hmode.symm, ← hopcode, ← hop, ← hmode]

theorem instr_mem_tableLine (i : Instr) : (i.opcode, i.operand.mode, composedCycles i) ∈ tableLine i.op :=
  mem_tableLine.mpr ⟨_, mem_instructionTable i, rfl, rfl⟩

/-- Every row of the table is the row of some instruction. -/
theorem exists_instr_of_row {row : Row} (h : row ∈ instructionTable) :
    ∃ i : Instr, i.op = row.op ∧ i.opcode = row.opcode ∧ i.operand.mode = row.mode := by
  obtain ⟨o, -, -, hmode, hpad⟩ := takeOperand_of_two_bytes ⟨row.op, row.mode⟩ 0 0 []
  have hform : o.wellFormedFor row.op = true := by
    simp [Operand.wellFormedFor, hmode, hpad, row_wellFormed row h]
  obtain ⟨i, -, hop, rfl⟩ := exists_instr_of_wellFormedFor hform
  have hrow := List.inj_on_of_nodup_map instructionTable_entries_nodup
    (mem_instructionTable i) h (by simp [hop, hmode])
  exact ⟨i, hop, by rw [← hrow], hmode⟩

theorem indexExtra_of_not_mem_readOps {i : Instr} (hop : i.op ∉ readOps) (s : State) : indexExtra i s = 0 :=
  if_neg hop

/-- A line with the rows of the table is the operation's Encoding line, where its instructions make as many requests as
their composed cycle counts say. -/
theorem encodingLine_of_tableLine {op : Op} {line : List (Byte × Mode × Nat)} (hline : line.Perm (tableLine op))
    (hexec : ∀ (i : Instr) (s : State), i.op = op → ∃ t, exec i s = .next t ∧
      t.history.length = s.history.length + composedCycles i + indexExtra i s) : encodingLine op line := by
  refine ⟨fun i s hop => ?_, fun e he => ?_⟩
  · obtain ⟨t, ht, hlength⟩ := hexec i s hop
    exact ⟨t, composedCycles i, ht, hline.mem_iff.mpr (hop ▸ instr_mem_tableLine i), hlength⟩
  · obtain ⟨row, hrow, hop, rfl⟩ := mem_tableLine.mp (hline.mem_iff.mp he)
    obtain ⟨i, hi, hopcode, hmode⟩ := exists_instr_of_row hrow
    exact ⟨i, hi.trans hop, hopcode, hmode⟩

end Sys2Proof
end

section
/-! What the instructions of several classes share: the PC after them, the answers of the bus after an addressing mode, a
write seen in memory, and N and Z (40_operations.md R100). -/

namespace Sys2Proof

open Sys2Proof.Machine Sys2Proof.Claims

theorem nextPc_of_imm {i : Instr} {v : Byte} (ho : i.operand = .imm v) (s : State) :
    nextPc i s = s.regs.pc + 1 + 1 := by
  simp [nextPc, Instr.length, encode, ho, Operand.bytes, BitVec.add_assoc]

theorem nextPc_of_mem {i : Instr} {m : MemOperand} (ho : i.operand = .mem m) (s : State) :
    nextPc i s = s.regs.pc + 1 + BitVec.ofNat 16 m.bytes.length := by
  simp [nextPc, Instr.length, encode, ho, Operand.bytes, BitVec.add_assoc, BitVec.ofNat_add, BitVec.add_comm]

/-- A bus read after any number of reads. -/
theorem answer_eq_byteAnswered {s t : State} (hmem : t.mem = s.mem) (hhost : t.hostRegions = s.hostRegions) (a : Word) :
    t.answer a = byteAnswered s t.history a := by
  simp [State.answer, byteAnswered, hmem, State.hostAnswers_congr hhost]

theorem resolve_answer (wl : Bool) (m : MemOperand) (s : State) (a : Word) :
    (resolve wl m s.opcodeFetch).2.answer a = byteAnswered s (resolve wl m s.opcodeFetch).2.history a :=
  answer_eq_byteAnswered (by simp) (by simp) a

/-- An addressing mode leaves PC at the next instruction, and no other register changed (R160). -/
theorem resolve_opcodeFetch_regs {i : Instr} {m : MemOperand} (ho : i.operand = .mem m) (wl : Bool) (s : State) :
    (resolve wl m s.opcodeFetch).2.regs = s.regs.setPc (nextPc i s) := by
  rw [resolve_regs, nextPc_of_mem ho]; rfl

theorem busWrite_byteStored {s u : State} (hwf : s.mem.wf = true → u.mem.wf = true)
    (hhost : u.hostRegions = s.hostRegions) (w : Word) (v : Byte) : byteStored w v s (u.busWrite w v) :=
  fun hs hplain => State.perform_write_read_same (hwf hs) (State.hostAnswers_congr hhost w ▸ hplain) v

theorem busWrite_bytesKeptExcept (u : State) (w : Word) (v : Byte) : bytesKeptExcept [w] u (u.busWrite w v) := by
  intro a ha
  exact State.perform_write_read_ne u (ha w (by simp)).symm v

/-- The flags are those of the stored byte P. -/
theorem flag_eq_of_p {r r' : RegFile} (h : r.p = r'.p) (f : Flag) : r.flag f = r'.flag f := by
  simp [RegFile.flag, RegFile.readP, h]

/-- `N, Z from v` (R100): where P is written by that rule, N and Z are those of `v` and the other flags are kept. -/
theorem nzFrom_and_flagsKept {s t : State} {v : Byte} (h : t.regs.p = (s.regs.setNZ v).p) :
    nzFrom v t ∧ flagsKept [.n, .z] s t := by
  have hflag : ∀ f, t.regs.flag f = _ := fun f => (flag_eq_of_p h f).trans (RegFile.setNZ_flag v s.regs f)
  exact ⟨⟨by simp [hflag], by simp [hflag]⟩, fun f => by cases f <;> simp [hflag]⟩

end Sys2Proof
end

section
/-! The instructions of class `read` (30_encoding.md R74): their operand byte, their function on the registers, their
requests (41_addressing.md R161, R172, R173). -/

namespace Sys2Proof

open Sys2Proof.Machine Sys2Proof.Claims

set_option maxRecDepth 8000 in
/-- The modes and cycles of the value consumers (R195). -/
theorem readOps_rows : ∀ row ∈ instructionTable, row.op ∈ readOps → (row.mode, row.cycles) ∈
    [(.imm, 2), (.zp, 3), (.zpx, 4), (.zpy, 4), (.abs, 4), (.abx, 4), (.aby, 4), (.izx, 6), (.izy, 5)] := by
  decide

/-- A value consumer takes an immediate byte, or the byte at the address a mode delivers. -/
theorem operand_of_mem_readOps {i : Instr} (hop : i.op ∈ readOps) :
    (∃ v, i.operand = .imm v ∧ composedCycles i = 2) ∨ ∃ m, i.operand = .mem m ∧ (m.mode, composedCycles i) ∈
      [(.zp, 3), (.zpx, 4), (.zpy, 4), (.abs, 4), (.abx, 4), (.aby, 4), (.izx, 6), (.izy, 5)] := by
  have hrow := readOps_rows _ (mem_instructionTable i) hop
  cases ho : i.operand with
  | imm v => exact .inl ⟨v, rfl, by simpa [ho, Operand.mode] using hrow⟩
  | mem m =>
    refine .inr ⟨m, rfl, (List.mem_cons.mp (ho ▸ hrow)).resolve_left fun h => ?_⟩
    cases m <;> cases congrArg Prod.fst h
  | imp | pad b | acc | rel off => simp [ho, Operand.mode] at hrow

/-- `f` is what the instructions of the operation `op` of class `read` do with their operand byte. -/
structure IsReadFunction (op : Op) (f : Byte → RegFile → RegFile) : Prop where
  mem_readOps : op ∈ readOps
  composition : ∀ mode, compositionOf ⟨op, mode⟩ = .read f
  keeps_s : ∀ m r, (f m r).s = r.s
  keeps_pc : ∀ m r, (f m r).pc = r.pc

/-- An instruction of class `read` applies its function to the operand byte, at the next instruction's PC. -/
theorem exec_read {op : Op} {f : Byte → RegFile → RegFile} (hf : IsReadFunction op f) {i : Instr} (hop : i.op = op)
    (s : State) :
    ∃ t, exec i s = .next t ∧ t.regs = f (operandByte i s) (s.regs.setPc (nextPc i s)) ∧ readFrame i s t := by
  have hc : compositionOf i.entry = .read f := by rw [Instr.entry, hop, hf.composition]
  have hspec : ∃ t, exec i s = .next t ∧ t.regs = f (operandByte i s) (s.regs.setPc (nextPc i s)) ∧ t.mem = s.mem ∧
      t.phase = s.phase ∧ t.hostRegions = s.hostRegions ∧ t.history = readRequests i s := by
    obtain ⟨v, ho, -⟩ | ⟨m, ho, -⟩ := operand_of_mem_readOps (hop ▸ hf.mem_readOps)
    · rw [exec_eq_runComposition, hc, nextPc_of_imm ho, operandByte, readRequests, ho]
      exact readImmediate_spec f v s
    · rw [exec_eq_runComposition, hc, nextPc_of_mem ho, operandByte, readRequests, ho]
      simp only [← resolve_answer]
      exact readMemory_spec f m s
  obtain ⟨t, ht, hregs, hmem, hphase, hhost, hhist⟩ := hspec
  refine ⟨t, ht, hregs, ?_, ?_, fun a => by rw [hmem], ⟨hphase, hhost⟩, hhist⟩
  · rw [hregs, hf.keeps_s]; rfl
  · rw [hregs, hf.keeps_pc]; rfl

/-- An indexed read makes the extra request where the sum crosses a page (R179). -/
theorem indexCycle_false_history_length (base ea : Word) (s : State) :
    (indexCycle false base ea s).history.length = s.history.length + crossCycle base ea := by
  simp only [indexCycle_history, crossCycle, Bool.or_false]
  split <;> rfl

/-- The line of an operation of class `read`: the fetch, the mode's requests and the read of the operand byte are the
composed cycle count, and one more where an indexed sum crosses a page (R179, R195). -/
theorem encodingLine_of_read {op : Op} {f : Byte → RegFile → RegFile} (hf : IsReadFunction op f)
    {line : List (Byte × Mode × Nat)} (hline : line.Perm (tableLine op)) : encodingLine op line := by
  refine encodingLine_of_tableLine hline fun i s hop => ?_
  obtain ⟨t, ht, -, -, -, -, -, hhist⟩ := exec_read hf hop s
  have hread : i.op ∈ readOps := hop ▸ hf.mem_readOps
  refine ⟨t, ht, ?_⟩
  obtain ⟨v, ho, hcycles⟩ | ⟨m, ho, hcycles⟩ := operand_of_mem_readOps hread
  · simp [hhist, readRequests, hcycles, indexExtra, ho]
  · simp only [hhist, readRequests, indexExtra, hread, ho, if_true]
    cases m with
    | zp z | zpx z | zpy z | abs a | izx p =>
      simp [MemOperand.mode] at hcycles
      simp [hcycles, resolve]
    | abx a | aby a | izy p =>
      simp [MemOperand.mode] at hcycles
      simp [hcycles, resolve, indexCycle_false_history_length]
      omega
    | ind a => simp [MemOperand.mode] at hcycles

end Sys2Proof
end

section
/-! The value consumers: loads, logic, arithmetic, comparisons, BIT (40_operations.md R102 to R104, R108 to R116). -/

namespace Sys2Proof

open Sys2Proof.Machine Sys2Proof.Claims

/-! ### Loads and logic -/

/-- A value consumer that writes P by `N, Z from v` (R100). -/
theorem exec_read_setNZ {op : Op} {f : Byte → RegFile → RegFile} (hf : IsReadFunction op f) {v : Byte → RegFile → Byte}
    (hp : ∀ m r, (f m r).p = (r.setNZ (v m r)).p) {i : Instr} (hop : i.op = op) (s : State) :
    let r := s.regs.setPc (nextPc i s)
    ∃ t, exec i s = .next t ∧ t.regs = f (operandByte i s) r ∧ nzFrom (v (operandByte i s) r) t ∧
      flagsKept [.n, .z] s t ∧ readFrame i s t := by
  obtain ⟨t, ht, hregs, hframe⟩ := exec_read hf hop s
  obtain ⟨hnz, hkept⟩ := nzFrom_and_flagsKept (s := s) (t := t) (by rw [hregs, hp]; rfl)
  exact ⟨t, ht, hregs, hnz, hkept, hframe⟩

theorem isReadFunction_lda : IsReadFunction .lda opLda := ⟨by decide, fun _ => rfl, fun _ _ => rfl, fun _ _ => rfl⟩
theorem isReadFunction_ldx : IsReadFunction .ldx opLdx := ⟨by decide, fun _ => rfl, fun _ _ => rfl, fun _ _ => rfl⟩
theorem isReadFunction_ldy : IsReadFunction .ldy opLdy := ⟨by decide, fun _ => rfl, fun _ _ => rfl, fun _ _ => rfl⟩
theorem isReadFunction_and : IsReadFunction .and opAnd := ⟨by decide, fun _ => rfl, fun _ _ => rfl, fun _ _ => rfl⟩
theorem isReadFunction_ora : IsReadFunction .ora opOra := ⟨by decide, fun _ => rfl, fun _ _ => rfl, fun _ _ => rfl⟩
theorem isReadFunction_eor : IsReadFunction .eor opEor := ⟨by decide, fun _ => rfl, fun _ _ => rfl, fun _ _ => rfl⟩

/-- Settles O24: each load applies its function to the operand byte, which writes its register and P by `N, Z from M`. -/
theorem loadsWriteTheirRegister : Obligations.LoadsWriteTheirRegister := by
  unfold Obligations.LoadsWriteTheirRegister
  refine ⟨encodingLine_of_read isReadFunction_lda (by decide), encodingLine_of_read isReadFunction_ldx (by decide),
    encodingLine_of_read isReadFunction_ldy (by decide), fun i s hop => ?_⟩
  rcases hop with hop | hop | hop
  · obtain ⟨t, ht, hregs, hnz, hkept, hframe⟩ := exec_read_setNZ isReadFunction_lda (fun _ _ => rfl) hop s
    exact ⟨t, ht, hnz, hkept, hframe, by simp [hregs, hop, opLda_eq]⟩
  · obtain ⟨t, ht, hregs, hnz, hkept, hframe⟩ := exec_read_setNZ isReadFunction_ldx (fun _ _ => rfl) hop s
    exact ⟨t, ht, hnz, hkept, hframe, by simp [hregs, hop, opLdx_eq]⟩
  · obtain ⟨t, ht, hregs, hnz, hkept, hframe⟩ := exec_read_setNZ isReadFunction_ldy (fun _ _ => rfl) hop s
    exact ⟨t, ht, hnz, hkept, hframe, by simp [hregs, hop, opLdy_eq]⟩

/-- Settles O26: each of the three writes A and P by `N, Z from A`; the bits of A are those of the bitwise result. -/
theorem logicalOperationsWriteA : Obligations.LogicalOperationsWriteA := by
  unfold Obligations.LogicalOperationsWriteA
  refine ⟨encodingLine_of_read isReadFunction_and (by decide), encodingLine_of_read isReadFunction_ora (by decide),
    encodingLine_of_read isReadFunction_eor (by decide), fun i s hop => ?_⟩
  rcases hop with hop | hop | hop
  · obtain ⟨t, ht, hregs, hnz, hkept, hframe⟩ := exec_read_setNZ isReadFunction_and (fun _ _ => rfl) hop s
    exact ⟨t, ht, hregs ▸ hnz, hkept, hframe, by simp [hregs, hop, opAnd_eq]⟩
  · obtain ⟨t, ht, hregs, hnz, hkept, hframe⟩ := exec_read_setNZ isReadFunction_ora (fun _ _ => rfl) hop s
    exact ⟨t, ht, hregs ▸ hnz, hkept, hframe, by simp [hregs, hop, opOra_eq]⟩
  · obtain ⟨t, ht, hregs, hnz, hkept, hframe⟩ := exec_read_setNZ isReadFunction_eor (fun _ _ => rfl) hop s
    exact ⟨t, ht, hregs ▸ hnz, hkept, hframe, by simp [hregs, hop, opEor_eq]⟩

/-! ### Arithmetic -/

theorem isReadFunction_adc : IsReadFunction .adc opAdc := ⟨by decide, fun _ => rfl, fun _ _ => rfl, fun _ _ => rfl⟩
theorem isReadFunction_sbc : IsReadFunction .sbc opSbc := ⟨by decide, fun _ => rfl, fun _ _ => rfl, fun _ _ => rfl⟩

theorem binaryAdd_nz (a m : Byte) (c : Bool) :
    (binaryAdd a m c).n = (binaryAdd a m c).r.getLsbD 7 ∧ (binaryAdd a m c).z = ((binaryAdd a m c).r == 0) :=
  ⟨rfl, rfl⟩

theorem nzFrom_of_result {q : AluResult} {t : State} (ha : t.regs.a = q.r) (hn : t.regs.flag .n = q.n)
    (hz : t.regs.flag .z = q.z) (hq : q.n = q.r.getLsbD 7 ∧ q.z = (q.r == 0)) : nzFrom t.regs.a t := by
  simp [nzFrom, ha, hn, hz, hq]

/-- ADC and SBC write A and the four flags with what `g` delivers of P.D, A, M and the carry (R111, R112). -/
theorem exec_read_putsResult {op : Op} {f : Byte → RegFile → RegFile} (hf : IsReadFunction op f)
    {g : Bool → Byte → Byte → Bool → AluResult}
    (hg : ∀ m r, f m r = r.putResult (g (r.flag .d) r.a m (r.flag .c))) {i : Instr} (hop : i.op = op) (s : State) :
    ∃ t, exec i s = .next t ∧ flagsKept [.n, .v, .z, .c] s t ∧ readFrame i s t ∧
      t.regs.x = s.regs.x ∧ t.regs.y = s.regs.y ∧
      let q := g (s.regs.flag .d) s.regs.a (operandByte i s) (s.regs.flag .c)
      t.regs.a = q.r ∧ t.regs.flag .n = q.n ∧ t.regs.flag .v = q.v ∧ t.regs.flag .z = q.z ∧ t.regs.flag .c = q.c := by
  obtain ⟨t, ht, hregs, hframe⟩ := exec_read hf hop s
  rw [hg] at hregs
  have hflag : ∀ f, t.regs.flag f = _ := fun f => hregs ▸ RegFile.putResult_flag _ _ f
  exact ⟨t, ht, fun f => by cases f <;> simp [hflag], hframe, by simp [hregs], by simp [hregs], by simp [hregs],
    by simp [hflag]⟩

/-- Settles O27: A and the flags are `adcResult`, which is the binary sum or the open parameter by P.D. -/
theorem adcAddsWithCarry : Obligations.AdcAddsWithCarry := by
  unfold Obligations.AdcAddsWithCarry
  refine ⟨encodingLine_of_read isReadFunction_adc (by decide), fun i s hop => ?_⟩
  obtain ⟨t, ht, hkept, hframe, hx, hy, ha, hn, hv, hz, hc⟩ :=
    exec_read_putsResult isReadFunction_adc (fun _ _ => rfl) hop s
  refine ⟨t, ht, hkept, hframe, hx, hy, fun hd => ?_, fun hd => ?_⟩
  · simp only [hd, adcResult, Bool.false_eq_true, if_false] at ha hn hv hz hc
    exact ⟨by simp [ha, binaryAdd], by simp [hc, binaryAdd], nzFrom_of_result ha hn hz (binaryAdd_nz _ _ _),
      by simp [hv, ha, binaryAdd]⟩
  · simp only [hd, adcResult, if_true] at ha hn hv hz hc
    exact ⟨ha, hn, hv, hz, hc⟩

theorem binarySub_eq_binaryAdd_not (a m : Byte) (c : Bool) : binarySub a m c = binaryAdd a (~~~m) c := by
  rw [binarySub, show (0xFF : Byte) = BitVec.allOnes 8 from rfl, BitVec.xor_allOnes]

/-- Binary subtraction is the exact difference mod 256, its carry the absence of a borrow (R112). -/
theorem binarySub_spec (a m : Byte) (c : Bool) :
    let borrow : Nat := if c then 0 else 1
    (binarySub a m c).r.toNat = (a.toNat + 512 - m.toNat - borrow) % 256 ∧
    ((binarySub a m c).c = true ↔ m.toNat + borrow ≤ a.toNat) ∧
    (binarySub a m c).v =
      (a.getLsbD 7 != (binarySub a m c).r.getLsbD 7 && m.getLsbD 7 == (binarySub a m c).r.getLsbD 7) := by
  have hm := m.isLt
  have ha := a.isLt
  simp only [binarySub_eq_binaryAdd_not]
  refine ⟨?_, ?_, ?_⟩
  · cases c <;> simp [binaryAdd] <;> omega
  · cases c <;> simp [binaryAdd] <;> omega
  · simp [binaryAdd, bne]

/-- Settles O28: A and the flags are `sbcResult`; the binary sum with the complement of M is the exact difference. -/
theorem sbcSubtractsWithBorrow : Obligations.SbcSubtractsWithBorrow := by
  unfold Obligations.SbcSubtractsWithBorrow
  refine ⟨encodingLine_of_read isReadFunction_sbc (by decide), fun i s hop => ?_⟩
  obtain ⟨t, ht, hkept, hframe, hx, hy, ha, hn, hv, hz, hc⟩ :=
    exec_read_putsResult isReadFunction_sbc (fun _ _ => rfl) hop s
  refine ⟨t, ht, hkept, hframe, hx, hy, fun hd => ?_, fun hd => ?_⟩
  · simp only [hd, sbcResult, Bool.false_eq_true, if_false] at ha hn hv hz hc
    obtain ⟨hr, hcarry, hoverflow⟩ := binarySub_spec s.regs.a (operandByte i s) (s.regs.flag .c)
    exact ⟨ha ▸ hr, hc ▸ hcarry, nzFrom_of_result ha hn hz (binaryAdd_nz _ _ _), by rw [hv, ha, hoverflow]⟩
  · simp only [hd, sbcResult, if_true] at ha hn hv hz hc
    exact ⟨ha, hn, hv, hz, hc⟩

/-! ### Comparisons and BIT -/

theorem isReadFunction_cmp : IsReadFunction .cmp opCmp := ⟨by decide, fun _ => rfl, fun _ _ => rfl, fun _ _ => rfl⟩
theorem isReadFunction_cpx : IsReadFunction .cpx opCpx := ⟨by decide, fun _ => rfl, fun _ _ => rfl, fun _ _ => rfl⟩
theorem isReadFunction_cpy : IsReadFunction .cpy opCpy := ⟨by decide, fun _ => rfl, fun _ _ => rfl, fun _ _ => rfl⟩
theorem isReadFunction_bit : IsReadFunction .bit opBit := ⟨by decide, fun _ => rfl, fun _ _ => rfl, fun _ _ => rfl⟩

theorem sub_eq_ofNat (u m : Byte) : u - m = BitVec.ofNat 8 ((u.toNat + 256 - m.toNat) % 256) := by
  apply BitVec.eq_of_toNat_eq
  simp only [BitVec.toNat_sub, BitVec.toNat_ofNat]
  omega

/-- A comparison of the register `v` with the operand byte (R113 to R115). -/
theorem exec_read_compare {op : Op} {f : Byte → RegFile → RegFile} (hf : IsReadFunction op f) {v : RegFile → Byte}
    (hv : ∀ m r, f m r = r.compare (v r) m) {i : Instr} (hop : i.op = op) (s : State) :
    let m := operandByte i s
    let r := v (s.regs.setPc (nextPc i s))
    ∃ t, exec i s = .next t ∧ (t.regs.flag .c = true ↔ m.toNat ≤ r.toNat) ∧ (t.regs.flag .z = true ↔ r = m) ∧
      nzFrom (BitVec.ofNat 8 ((r.toNat + 256 - m.toNat) % 256)) t ∧ flagsKept [.n, .z, .c] s t ∧ readFrame i s t ∧
      t.regs.a = s.regs.a ∧ t.regs.x = s.regs.x ∧ t.regs.y = s.regs.y := by
  obtain ⟨t, ht, hregs, hframe⟩ := exec_read hf hop s
  rw [hv] at hregs
  have hflag : ∀ f, t.regs.flag f = _ := fun f => hregs ▸ RegFile.compare_flag _ _ _ f
  have hzero : ∀ u m : Byte, u - m = 0#8 ↔ u = m := fun _ _ => sub_eq_zero
  refine ⟨t, ht, by simp [hflag], by simp [hflag, hzero], ?_, fun f => by cases f <;> simp [hflag], hframe,
    by simp [hregs]⟩
  rw [← sub_eq_ofNat]
  exact ⟨by simp [hflag], by simp [hflag]⟩

/-- Settles O30: each of the three is `compare` of its register with M. -/
theorem comparisonsWriteFlagsOnly : Obligations.ComparisonsWriteFlagsOnly := by
  unfold Obligations.ComparisonsWriteFlagsOnly
  refine ⟨encodingLine_of_read isReadFunction_cmp (by decide), encodingLine_of_read isReadFunction_cpx (by decide),
    encodingLine_of_read isReadFunction_cpy (by decide), fun i s hop => ?_⟩
  rcases hop with hop | hop | hop
  · simpa [hop] using exec_read_compare isReadFunction_cmp (fun _ _ => rfl) hop s
  · simpa [hop] using exec_read_compare isReadFunction_cpx (fun _ _ => rfl) hop s
  · simpa [hop] using exec_read_compare isReadFunction_cpy (fun _ _ => rfl) hop s

theorem opBit_flag (m : Byte) (r : RegFile) (f : Flag) :
    (opBit m r).flag f =
      if f = .v then m.getLsbD 6 else if f = .n then m.getLsbD 7 else if f = .z then r.a &&& m == 0 else r.flag f := by
  rw [opBit, RegFile.setFlag_flag, RegFile.setFlag_flag, RegFile.setFlag_flag]
  cases f <;> simp

/-- Settles O31: BIT is three flag writes, none of them of a register. -/
theorem bitTestsTheOperand : Obligations.BitTestsTheOperand := by
  unfold Obligations.BitTestsTheOperand
  refine ⟨encodingLine_of_read isReadFunction_bit (by decide), fun i s hop => ?_⟩
  obtain ⟨t, ht, hregs, hframe⟩ := exec_read isReadFunction_bit hop s
  have hflag : ∀ f, t.regs.flag f = _ := fun f => hregs ▸ opBit_flag _ _ f
  refine ⟨t, ht, by simp [hflag], by simp [hflag], by simp [hflag], fun f => by cases f <;> simp [hflag], hframe, ?_⟩
  rw [hregs]
  exact ⟨rfl, rfl, rfl⟩

end Sys2Proof
end

section
/-! The stores (40_operations.md R105 to R107, 41_addressing.md R174). -/

namespace Sys2Proof

open Sys2Proof.Machine Sys2Proof.Claims

set_option maxRecDepth 8000 in
/-- The modes and cycles of the stores (R195). -/
theorem writeOps_rows : ∀ row ∈ instructionTable, row.op ∈ writeOps → (row.mode, row.cycles) ∈
    [(.zp, 3), (.zpx, 4), (.zpy, 4), (.abs, 4), (.abx, 5), (.aby, 5), (.izx, 6), (.izy, 6)] := by
  decide

theorem operand_of_mem_writeOps {i : Instr} (hop : i.op ∈ writeOps) :
    ∃ m, i.operand = .mem m ∧ (m.mode, composedCycles i) ∈
      [(.zp, 3), (.zpx, 4), (.zpy, 4), (.abs, 4), (.abx, 5), (.aby, 5), (.izx, 6), (.izy, 6)] := by
  have hrow := writeOps_rows _ (mem_instructionTable i) hop
  cases ho : i.operand with
  | mem m => exact ⟨m, rfl, by rwa [ho] at hrow⟩
  | imm v | imp | pad b | acc | rel off => simp [ho, Operand.mode] at hrow

/-- The register a store writes to memory (R105 to R107). -/
def storedRegister (op : Op) (r : RegFile) : Byte := if op = .sta then r.a else if op = .stx then r.x else r.y

theorem compositionOf_of_mem_writeOps {op : Op} (hop : op ∈ writeOps) (mode : Mode) :
    compositionOf ⟨op, mode⟩ = .write (storedRegister op) := by
  simp only [writeOps, List.mem_cons, List.not_mem_nil, or_false] at hop
  rcases hop with rfl | rfl | rfl <;> rfl

/-- A store makes one write, of its register at the address its mode delivers, after the mode's cycles (R174). -/
theorem exec_write {i : Instr} (hop : i.op ∈ writeOps) {m : MemOperand} (ho : i.operand = .mem m) (s : State) :
    let v := storedRegister i.op s.regs
    ∃ t, exec i s = .next t ∧
      t.history = .write (storeAddress m s) v :: (resolve true m s.opcodeFetch).2.history ∧
      t.regs = { s.regs with pc := nextPc i s } ∧ controlKept s t ∧
      byteStored (storeAddress m s) v s t ∧ bytesKeptExcept [storeAddress m s] s t := by
  intro v
  have hregs := resolve_opcodeFetch_regs ho true s
  have hexec : exec i s = .next ((resolve true m s.opcodeFetch).2.busWrite (storeAddress m s) v) := by
    rw [exec_eq_runComposition, Instr.entry, compositionOf_of_mem_writeOps hop, ho]
    show storeMemory _ m s = _
    rw [storeMemory, hregs]
    rfl
  have hkept := busWrite_bytesKeptExcept (resolve true m s.opcodeFetch).2 (storeAddress m s) v
  refine ⟨_, hexec, by simp, (State.perform_regs _ _).trans hregs, ⟨by simp, by simp⟩,
    busWrite_byteStored (by simp) (by simp) _ _, ?_⟩
  simpa [bytesKeptExcept] using hkept

/-- The last cycle of an indexed mode of a write-like operation is the read at the unfixed address (R174, R179). -/
theorem resolve_true_history_head {m : MemOperand} {base : Word} {s : State}
    (h : m = .abx base ∨ m = .aby base ∨ ∃ p, m = .izy p ∧ base = storeAddress m s - zext16 s.regs.y) :
    (resolve true m s.opcodeFetch).2.history[0]? = some (.read (cat (hi base) (lo (storeAddress m s)))) := by
  rcases h with rfl | rfl | ⟨p, rfl, rfl⟩ <;>
    simp [storeAddress, resolve, indexCycle_history, unfixed]

theorem writeOps_disjoint : ∀ op ∈ writeOps, op ∉ readOps := by decide

/-- The line of a store: the fetch, the mode's requests with the extra cycle always, and the write (R179, R195). -/
theorem encodingLine_of_write {op : Op} (hop : op ∈ writeOps) {line : List (Byte × Mode × Nat)}
    (hline : line.Perm (tableLine op)) : encodingLine op line := by
  refine encodingLine_of_tableLine hline fun i s hi => ?_
  have hwrite : i.op ∈ writeOps := hi ▸ hop
  obtain ⟨m, ho, hcycles⟩ := operand_of_mem_writeOps hwrite
  obtain ⟨t, ht, hhist, -⟩ := exec_write hwrite ho s
  refine ⟨t, ht, ?_⟩
  rw [hhist, indexExtra_of_not_mem_readOps (writeOps_disjoint _ hwrite)]
  cases m with
  | zp z | zpx z | zpy z | abs a | abx a | aby a | izx a | izy a =>
    simp [MemOperand.mode] at hcycles
    simp [hcycles, resolve, indexCycle_history]
  | ind a => simp [MemOperand.mode] at hcycles

/-- Settles O25: a store is one write after its mode, whose last cycle in ABX, ABY and IZY is the unfixed read. -/
theorem storesWriteTheirByte : Obligations.StoresWriteTheirByte := by
  unfold Obligations.StoresWriteTheirByte
  refine ⟨encodingLine_of_write (by decide) (by decide), encodingLine_of_write (by decide) (by decide),
    encodingLine_of_write (by decide) (by decide), fun i m s hop ho => ?_⟩
  obtain ⟨t, ht, hhist, hregs, hcontrol, hstored, hkept⟩ := exec_write hop ho s
  refine ⟨t, ht, hhist, hregs, hcontrol, hstored, hkept, fun base hbase => ?_⟩
  rw [hhist, List.getElem?_cons_succ]
  exact resolve_true_history_head hbase

end Sys2Proof
end

section
/-! The single-cycle instructions (41_addressing.md R176): counts, transfers, flag operations (40_operations.md R123 to
R140). -/

namespace Sys2Proof

open Sys2Proof.Machine Sys2Proof.Claims

/-- The single-cycle shape: two reads, and the function on the registers, PC one further (R176). -/
theorem exec_implied {i : Instr} {f : RegFile → RegFile} (hc : compositionOf i.entry = .implied f) (s : State) :
    exec i s = .next { s with
      regs := f s.regs.incPc
      history := .read (s.regs.pc + 1) :: .fetch s.regs.pc :: s.history } := by
  rw [exec_eq_runComposition, hc]
  rfl

theorem encodingLine_of_implied {op : Op} {f : RegFile → RegFile} (hc : compositionOf ⟨op, .imp⟩ = .implied f)
    (hread : op ∉ readOps) {opcode : Byte} (hline : tableLine op = [(opcode, .imp, 2)]) :
    encodingLine op [(opcode, .imp, 2)] := by
  refine encodingLine_of_tableLine (.of_eq hline.symm) fun i s hop => ?_
  have hrow := instr_mem_tableLine i
  rw [hop, hline] at hrow
  obtain ⟨-, hmode, hcycles⟩ : i.opcode = opcode ∧ i.operand.mode = .imp ∧ composedCycles i = 2 := by simpa using hrow
  refine ⟨_, exec_implied (by rw [Instr.entry, hop, hmode, hc]) s, ?_⟩
  rw [hcycles, indexExtra_of_not_mem_readOps (hop ▸ hread)]
  rfl

theorem exec_implied_frame {i : Instr} {f : RegFile → RegFile} (hc : compositionOf i.entry = .implied f)
    (hpc : ∀ r, (f r).pc = r.pc) (s : State) :
    ∃ t, exec i s = .next t ∧ t.regs = f s.regs.incPc ∧ impliedFrame s t :=
  ⟨_, exec_implied hc s, rfl, hpc _, fun _ => rfl, ⟨rfl, rfl⟩, rfl⟩

/-- A single-cycle instruction that writes P by `N, Z from v` (R100). -/
theorem exec_implied_setNZ {i : Instr} {f : RegFile → RegFile} {v : RegFile → Byte}
    (hc : compositionOf i.entry = .implied f) (hp : ∀ r, (f r).p = (r.setNZ (v r)).p) (hpc : ∀ r, (f r).pc = r.pc)
    (s : State) :
    ∃ t, exec i s = .next t ∧ t.regs = f s.regs.incPc ∧ nzFrom (v s.regs.incPc) t ∧ flagsKept [.n, .z] s t ∧
      impliedFrame s t := by
  obtain ⟨t, ht, hregs, hframe⟩ := exec_implied_frame hc hpc s
  obtain ⟨hnz, hkept⟩ := nzFrom_and_flagsKept (s := s) (t := t) (by rw [hregs, hp]; rfl)
  exact ⟨t, ht, hregs, hnz, hkept, hframe⟩

/-- Settles O34: each of the four is a single cycle that writes its register and P by `N, Z from` it. -/
theorem indexRegistersCount : Obligations.IndexRegistersCount := by
  unfold Obligations.IndexRegistersCount
  refine ⟨encodingLine_of_implied rfl (by decide) rfl, encodingLine_of_implied rfl (by decide) rfl,
    encodingLine_of_implied rfl (by decide) rfl, encodingLine_of_implied rfl (by decide) rfl, fun i s hi => ?_⟩
  rcases hi with rfl | rfl | rfl | rfl
  · obtain ⟨t, ht, hregs, hnz, hkept, hframe⟩ := exec_implied_setNZ (i := .inx) rfl (fun _ => rfl) (fun _ => rfl) s
    rw [opInx_eq] at hregs
    exact ⟨t, ht, hkept, by simp [hregs], by simp [hregs], hframe,
      by simpa [hregs, BitVec.toNat_add] using hnz⟩
  · obtain ⟨t, ht, hregs, hnz, hkept, hframe⟩ := exec_implied_setNZ (i := .iny) rfl (fun _ => rfl) (fun _ => rfl) s
    rw [opIny_eq] at hregs
    exact ⟨t, ht, hkept, by simp [hregs], by simp [hregs], hframe,
      by simpa [hregs, BitVec.toNat_add] using hnz⟩
  · obtain ⟨t, ht, hregs, hnz, hkept, hframe⟩ := exec_implied_setNZ (i := .dex) rfl (fun _ => rfl) (fun _ => rfl) s
    rw [opDex_eq] at hregs
    exact ⟨t, ht, hkept, by simp [hregs], by simp [hregs], hframe,
      by simpa [hregs, BitVec.toNat_sub, Nat.add_comm 255] using hnz⟩
  · obtain ⟨t, ht, hregs, hnz, hkept, hframe⟩ := exec_implied_setNZ (i := .dey) rfl (fun _ => rfl) (fun _ => rfl) s
    rw [opDey_eq] at hregs
    exact ⟨t, ht, hkept, by simp [hregs], by simp [hregs], hframe,
      by simpa [hregs, BitVec.toNat_sub, Nat.add_comm 255] using hnz⟩

/-- Settles O35: all but TXS are single cycles that write P by `N, Z from` the moved byte; TXS writes S alone. -/
theorem transfersCopyARegister : Obligations.TransfersCopyARegister := by
  unfold Obligations.TransfersCopyARegister
  refine ⟨encodingLine_of_implied rfl (by decide) rfl, encodingLine_of_implied rfl (by decide) rfl,
    encodingLine_of_implied rfl (by decide) rfl, encodingLine_of_implied rfl (by decide) rfl,
    encodingLine_of_implied rfl (by decide) rfl, encodingLine_of_implied rfl (by decide) rfl,
    fun s => exec_implied (i := .txs) rfl s, fun i s hi => ?_⟩
  rcases hi with rfl | rfl | rfl | rfl | rfl
  · obtain ⟨t, ht, hregs, hnz, hkept, hframe⟩ := exec_implied_setNZ (i := .tax) rfl (fun _ => rfl) (fun _ => rfl) s
    rw [opTax_eq] at hregs
    exact ⟨t, ht, hnz, hkept, by simp [hregs], hframe, by simp [hregs]⟩
  · obtain ⟨t, ht, hregs, hnz, hkept, hframe⟩ := exec_implied_setNZ (i := .tay) rfl (fun _ => rfl) (fun _ => rfl) s
    rw [opTay_eq] at hregs
    exact ⟨t, ht, hnz, hkept, by simp [hregs], hframe, by simp [hregs]⟩
  · obtain ⟨t, ht, hregs, hnz, hkept, hframe⟩ := exec_implied_setNZ (i := .txa) rfl (fun _ => rfl) (fun _ => rfl) s
    rw [opTxa_eq] at hregs
    exact ⟨t, ht, hnz, hkept, by simp [hregs], hframe, by simp [hregs]⟩
  · obtain ⟨t, ht, hregs, hnz, hkept, hframe⟩ := exec_implied_setNZ (i := .tya) rfl (fun _ => rfl) (fun _ => rfl) s
    rw [opTya_eq] at hregs
    exact ⟨t, ht, hnz, hkept, by simp [hregs], hframe, by simp [hregs]⟩
  · obtain ⟨t, ht, hregs, hnz, hkept, hframe⟩ := exec_implied_setNZ (i := .tsx) rfl (fun _ => rfl) (fun _ => rfl) s
    rw [opTsx_eq] at hregs
    exact ⟨t, ht, hnz, hkept, by simp [hregs], hframe, by simp [hregs]⟩

/-- Clearing a flag clears its bit of the byte P is read as (R26). -/
theorem setFlag_false_eq {f : Flag} (hf : f ≠ .u) (r : RegFile) :
    r.setFlag f false = { r with p := (r.p ||| 0x20) &&& ~~~(1#8 <<< f.bit) } := by
  have hmask : ~~~(1#8 <<< f.bit) ||| 0x20 = ~~~(1#8 <<< f.bit) := by
    cases f with
    | u => exact absurd rfl hf
    | n | v | b | d | i | z | c => rfl
  have hp : ((r.p ||| 0x20) &&& ~~~(1#8 <<< f.bit)) ||| 0x20 = (r.p ||| 0x20) &&& ~~~(1#8 <<< f.bit) := by
    apply BitVec.eq_of_getLsbD_eq
    intro k hk
    have hbit := congrArg (fun b => b.getLsbD k) hmask
    simp only [BitVec.getLsbD_or, BitVec.getLsbD_and] at hbit ⊢
    cases h : (0x20 : Byte).getLsbD k <;> simp_all
  rw [← hp]
  rfl

/-- Setting a flag sets its bit of the byte P is read as (R26). -/
theorem setFlag_true_eq (f : Flag) (r : RegFile) :
    r.setFlag f true = { r with p := (r.p ||| 0x20) ||| (1#8 <<< f.bit) } := by
  have hp : (r.p ||| 0x20) ||| (1#8 <<< f.bit) ||| 0x20 = (r.p ||| 0x20) ||| (1#8 <<< f.bit) := by
    rw [BitVec.or_assoc, BitVec.or_comm (1#8 <<< f.bit), ← BitVec.or_assoc, BitVec.or_assoc r.p, BitVec.or_self]
  rw [← hp]
  rfl

/-- A single-cycle instruction that clears the flag `f`. -/
theorem exec_clearFlag {i : Instr} {f : Flag} (hf : f ≠ .u)
    (hc : compositionOf i.entry = .implied (RegFile.setFlag f false)) (s : State) :
    exec i s = .next { s with
      regs := { s.regs with pc := s.regs.pc + 1, p := (s.regs.p ||| 0x20) &&& ~~~(1#8 <<< f.bit) }
      history := .read (s.regs.pc + 1) :: .fetch s.regs.pc :: s.history } := by
  rw [exec_implied hc, setFlag_false_eq hf]
  rfl

/-- A single-cycle instruction that sets the flag `f`. -/
theorem exec_setFlag {i : Instr} {f : Flag} (hc : compositionOf i.entry = .implied (RegFile.setFlag f true)) (s : State) :
    exec i s = .next { s with
      regs := { s.regs with pc := s.regs.pc + 1, p := (s.regs.p ||| 0x20) ||| (1#8 <<< f.bit) }
      history := .read (s.regs.pc + 1) :: .fetch s.regs.pc :: s.history } := by
  rw [exec_implied hc, setFlag_true_eq]
  rfl

/-- Settles O36: each operation is a single cycle that clears or sets one flag, a mask on the byte P is read as. -/
theorem flagOperationsWriteOneBit : Obligations.FlagOperationsWriteOneBit := by
  unfold Obligations.FlagOperationsWriteOneBit
  intro s p after
  exact ⟨⟨rfl, exec_clearFlag (f := .c) (by decide) rfl s⟩, ⟨rfl, exec_setFlag (f := .c) rfl s⟩,
    ⟨rfl, exec_clearFlag (f := .i) (by decide) rfl s⟩, ⟨rfl, exec_setFlag (f := .i) rfl s⟩,
    ⟨rfl, exec_clearFlag (f := .v) (by decide) rfl s⟩, ⟨rfl, exec_clearFlag (f := .d) (by decide) rfl s⟩,
    ⟨rfl, exec_setFlag (f := .d) rfl s⟩, ⟨rfl, exec_implied (i := .nop) (f := opNop) rfl s⟩⟩

end Sys2Proof
end

section
/-! Read-modify-write: shifts, rotates, INC and DEC, on A and on memory (40_operations.md R117 to R122, 41_addressing.md
R175). -/

namespace Sys2Proof

open Sys2Proof.Machine Sys2Proof.Claims

/-- `f` is what the instructions of the operation `op` of class `rmw` make of a byte: the byte to write back, and
the flags (R117 to R122). -/
structure IsModifyFunction (op : Op) (f : Byte → RegFile → Byte × RegFile) : Prop where
  composition : ∀ m : MemOperand, compositionOf ⟨op, m.mode⟩ = .rmw f
  result : ∀ data r, (f data r).1 = modified op data (r.flag .c)
  regs : ∀ data r, (f data r).2 = { r with p := (f data r).2.p }
  flags : ∀ data r g, (f data r).2.flag g =
    if g = .z then modified op data (r.flag .c) == 0
    else if g = .n then (modified op data (r.flag .c)).getLsbD 7
    else if g = .c then modifiedCarry op data (r.flag .c)
    else r.flag g

theorem shiftLeft_one_eq_ofNat (m : Byte) : m <<< 1 = BitVec.ofNat 8 (2 * m.toNat) := by
  apply BitVec.eq_of_toNat_eq
  simp [BitVec.toNat_shiftLeft, Nat.shiftLeft_eq, Nat.mul_comm]

theorem ushiftRight_one_eq_ofNat (m : Byte) : m >>> 1 = BitVec.ofNat 8 (m.toNat / 2) := by
  apply BitVec.eq_of_toNat_eq
  have hm := m.isLt
  rw [BitVec.toNat_ushiftRight, Nat.shiftRight_eq_div_pow, BitVec.toNat_ofNat]
  omega

theorem rotateLeft_eq_ofNat (m : Byte) (c : Bool) :
    (m <<< 1) ||| (if c then 0x01 else 0x00) = BitVec.ofNat 8 (2 * m.toNat + c.toNat) := by
  have hdisjoint : m <<< 1 &&& (if c then 0x01 else 0x00) = 0 := by
    cases c with
    | false => simp
    | true => exact BitVec.eq_of_getLsbD_eq fun k hk => by interval_cases k <;> simp
  rw [← BitVec.add_eq_or_of_and_eq_zero _ _ hdisjoint, shiftLeft_one_eq_ofNat, BitVec.ofNat_add]
  cases c <;> rfl

theorem rotateRight_eq_ofNat (m : Byte) (c : Bool) :
    (m >>> 1) ||| (if c then 0x80 else 0x00) = BitVec.ofNat 8 (m.toNat / 2 + 128 * c.toNat) := by
  have hdisjoint : m >>> 1 &&& (if c then 0x80 else 0x00) = 0 := by
    cases c with
    | false => simp
    | true => exact BitVec.eq_of_getLsbD_eq fun k hk => by interval_cases k <;> simp
  rw [← BitVec.add_eq_or_of_and_eq_zero _ _ hdisjoint, ushiftRight_one_eq_ofNat, BitVec.ofNat_add]
  cases c <;> rfl

/-- A shift or rotate sets C to the bit shifted out, then N and Z from the result. -/
theorem isModifyFunction_of_shift {op : Op} {f : Byte → RegFile → Byte × RegFile}
    (hc : ∀ m : MemOperand, compositionOf ⟨op, m.mode⟩ = .rmw f)
    (hf : ∀ data r, f data r = (modified op data (r.flag .c),
      (r.setFlag .c (modifiedCarry op data (r.flag .c))).setNZ (modified op data (r.flag .c)))) :
    IsModifyFunction op f where
  composition := hc
  result data r := by rw [hf]
  regs data r := by rw [hf]; rfl
  flags data r g := by
    rw [hf, RegFile.setNZ_flag, RegFile.setFlag_flag]
    cases g <;> simp

theorem isModifyFunction_asl : IsModifyFunction .asl opAsl :=
  isModifyFunction_of_shift (fun m => by cases m <;> rfl) fun data r => by
    rw [opAsl, shiftLeft_one_eq_ofNat]; rfl
theorem isModifyFunction_lsr : IsModifyFunction .lsr opLsr :=
  isModifyFunction_of_shift (fun m => by cases m <;> rfl) fun data r => by
    rw [opLsr, ushiftRight_one_eq_ofNat]; rfl
theorem isModifyFunction_rol : IsModifyFunction .rol opRol :=
  isModifyFunction_of_shift (fun m => by cases m <;> rfl) fun data r => by
    rw [opRol, rotateLeft_eq_ofNat]; rfl
theorem isModifyFunction_ror : IsModifyFunction .ror opRor :=
  isModifyFunction_of_shift (fun m => by cases m <;> rfl) fun data r => by
    rw [opRor, rotateRight_eq_ofNat]; rfl

/-- INC and DEC set N and Z from the result and leave C. -/
theorem isModifyFunction_of_count {op : Op} {f : Byte → RegFile → Byte × RegFile}
    (hc : ∀ m : MemOperand, compositionOf ⟨op, m.mode⟩ = .rmw f)
    (hcarry : ∀ data c, modifiedCarry op data c = c)
    (hf : ∀ data r, f data r = (modified op data (r.flag .c), r.setNZ (modified op data (r.flag .c)))) :
    IsModifyFunction op f where
  composition := hc
  result data r := by rw [hf]
  regs data r := by rw [hf]; rfl
  flags data r g := by
    rw [hf, RegFile.setNZ_flag, hcarry]
    cases g <;> rfl

theorem isModifyFunction_inc : IsModifyFunction .inc opInc :=
  isModifyFunction_of_count (fun _ => rfl) (fun _ _ => rfl) fun data r => by
    simp [opInc, modified, BitVec.ofNat_add]
theorem isModifyFunction_dec : IsModifyFunction .dec opDec :=
  isModifyFunction_of_count (fun _ => rfl) (fun _ _ => rfl) fun data r => by
    simp [opDec, modified, BitVec.ofNat_add, sub_eq_add_neg]

theorem exists_isModifyFunction {op : Op} (hop : op ∈ rmwOps) : ∃ f, IsModifyFunction op f := by
  simp only [rmwOps, List.mem_cons, List.not_mem_nil, or_false] at hop
  rcases hop with rfl | rfl | rfl | rfl | rfl | rfl
  · exact ⟨_, isModifyFunction_asl⟩
  · exact ⟨_, isModifyFunction_lsr⟩
  · exact ⟨_, isModifyFunction_rol⟩
  · exact ⟨_, isModifyFunction_ror⟩
  · exact ⟨_, isModifyFunction_inc⟩
  · exact ⟨_, isModifyFunction_dec⟩

/-- The flags where P is the one a modify function leaves. -/
theorem flags_of_isModifyFunction {op : Op} {f : Byte → RegFile → Byte × RegFile} (hf : IsModifyFunction op f)
    {data : Byte} {s t : State} {r : RegFile} (hr : r.p = s.regs.p) (hp : t.regs.p = (f data r).2.p) :
    nzFrom (modified op data (s.regs.flag .c)) t ∧ t.regs.flag .c = modifiedCarry op data (s.regs.flag .c) ∧
      flagsKept [.n, .z, .c] s t := by
  have hflag : ∀ g, t.regs.flag g = _ := fun g => (flag_eq_of_p hp g).trans (hf.flags data r g)
  simp only [flag_eq_of_p hr] at hflag
  exact ⟨⟨by simp [hflag], by simp [hflag]⟩, by simp [hflag], fun g => by cases g <;> simp [hflag]⟩

/-- A read-modify-write instruction reads its byte, works on the registers, and then writes twice at the delivered
address: the unmodified byte and the result (R175). -/
theorem exec_modify {i : Instr} {f : Byte → RegFile → Byte × RegFile} (hf : IsModifyFunction i.op f) {m : MemOperand}
    (ho : i.operand = .mem m) (s : State) :
    let ea := storeAddress m s
    let h := (resolve true m s.opcodeFetch).2.history
    let data := byteAnswered s h ea
    ∃ u, exec i s = .next ((u.busWrite ea data).busWrite ea (modified i.op data (s.regs.flag .c))) ∧
      u.regs = (f data (s.regs.setPc (nextPc i s))).2 ∧ u.mem = s.mem ∧ controlKept s u ∧
      u.history = .read ea :: h := by
  intro ea h data
  have hc : compositionOf i.entry = .rmw f := by rw [Instr.entry, ho]; exact hf.composition m
  have hdata : (resolve true m s.opcodeFetch).2.answer ea = data := resolve_answer true m s ea
  let r := s.regs.setPc (nextPc i s)
  have hres : (f data r).1 = modified i.op data (s.regs.flag .c) := hf.result data r
  refine ⟨((resolve true m s.opcodeFetch).2.perform (.read ea)).setRegs (f data r).2, ?_, rfl, by simp,
    ⟨by simp, by simp⟩, by simp [h]⟩
  rw [exec_eq_runComposition, hc, ho, ← hres, ← hdata]
  show modifyMemory f m s = _
  simp only [modifyMemory, State.busRead_fst, State.busRead_snd, State.perform_regs, resolve_opcodeFetch_regs ho]
  rfl

/-- Every read-modify-write instruction does what its rule says (R117 to R122). -/
theorem modifiesMemory_of_mem_rmwOps {i : Instr} (hop : i.op ∈ rmwOps) {m : MemOperand} (ho : i.operand = .mem m)
    (s : State) : modifiesMemory i m s := by
  obtain ⟨f, hf⟩ := exists_isModifyFunction hop
  obtain ⟨u, hexec, hregs, hmem, ⟨hphase, hhost⟩, hhist⟩ := exec_modify hf ho s
  let data := byteAnswered s (resolve true m s.opcodeFetch).2.history (storeAddress m s)
  let t := (u.busWrite (storeAddress m s) data).busWrite (storeAddress m s) (modified i.op data (s.regs.flag .c))
  have ht : t.regs = (f data (s.regs.setPc (nextPc i s))).2 := by simp [t, hregs, data]
  have hframe := ht.trans (hf.regs _ _)
  obtain ⟨hnz, hc, hflags⟩ :=
    flags_of_isModifyFunction hf (r := s.regs.setPc (nextPc i s)) (s := s) (t := t) rfl (by rw [ht])
  refine ⟨t, hexec, by simp [t, hhist, data], hnz, hc, hflags, by rw [hframe]; rfl, by rw [hframe]; rfl,
    by rw [hframe]; rfl, by rw [hframe]; rfl, by rw [hframe]; rfl, ⟨by simp [t, hphase], by simp [t, hhost]⟩, ?_, ?_⟩
  · exact busWrite_byteStored (fun hs => State.perform_mem_wf _ _ (hmem ▸ hs)) (by simp [hhost]) _ _
  · intro a ha
    rw [busWrite_bytesKeptExcept _ _ _ a ha, busWrite_bytesKeptExcept _ _ _ a ha, hmem]

/-- The operations with a form on A (R171). -/
def shiftOps : List Op := [.asl, .lsr, .rol, .ror]

theorem shiftOps_subset_rmwOps : shiftOps ⊆ rmwOps := by simp [shiftOps, rmwOps]

theorem exists_isModifyFunction_onAccumulator {op : Op} (hop : op ∈ shiftOps) :
    ∃ f, IsModifyFunction op f ∧ compositionOf ⟨op, .acc⟩ = .implied (onAccumulator f) := by
  simp only [shiftOps, List.mem_cons, List.not_mem_nil, or_false] at hop
  rcases hop with rfl | rfl | rfl | rfl
  · exact ⟨_, isModifyFunction_asl, rfl⟩
  · exact ⟨_, isModifyFunction_lsr, rfl⟩
  · exact ⟨_, isModifyFunction_rol, rfl⟩
  · exact ⟨_, isModifyFunction_ror, rfl⟩

theorem onAccumulator_eq {op : Op} {f : Byte → RegFile → Byte × RegFile} (hf : IsModifyFunction op f) (r : RegFile) :
    onAccumulator f r = { r with a := modified op r.a (r.flag .c), p := (f r.a r).2.p } := by
  rw [onAccumulator, hf.result, hf.regs]
  rfl

/-- The form of a shift or rotate on A takes A as the byte and writes the result to A (R101, R176). -/
theorem exec_modify_acc {i : Instr} (hop : i.op ∈ shiftOps) (ho : i.operand = .acc) (s : State) :
    ∃ t, exec i s = .next t ∧ t.regs.a = modified i.op s.regs.a (s.regs.flag .c) ∧
      t.regs.flag .c = modifiedCarry i.op s.regs.a (s.regs.flag .c) ∧ nzFrom t.regs.a t ∧ flagsKept [.n, .z, .c] s t ∧
      t.regs.x = s.regs.x ∧ t.regs.y = s.regs.y ∧ t.regs.s = s.regs.s ∧ impliedFrame s t := by
  obtain ⟨f, hf, hc⟩ := exists_isModifyFunction_onAccumulator hop
  have hacc := onAccumulator_eq hf
  obtain ⟨t, ht, hregs, hframe⟩ := exec_implied_frame (i := i) (by rw [Instr.entry, ho]; exact hc) (by simp [hacc]) s
  rw [hacc] at hregs
  obtain ⟨hnz, hcarry, hkept⟩ :=
    flags_of_isModifyFunction hf (r := s.regs.incPc) (s := s) (t := t) rfl (by rw [hregs])
  exact ⟨t, ht, by rw [hregs]; rfl, hcarry, by rw [hregs]; exact hnz, hkept, by rw [hregs]; rfl, by rw [hregs]; rfl,
    by rw [hregs]; rfl, hframe⟩

set_option maxRecDepth 8000 in
/-- The modes and cycles of the read-modify-write operations, and of the single-cycle forms on A (R195). -/
theorem rmwOps_rows : ∀ row ∈ instructionTable, row.op ∈ rmwOps → (row.op ∈ shiftOps ∧ row.mode = .acc ∧ row.cycles = 2) ∨
    (row.mode, row.cycles) ∈ [(.zp, 5), (.zpx, 6), (.abs, 6), (.abx, 7)] := by
  decide

theorem operand_of_mem_rmwOps {i : Instr} (hop : i.op ∈ rmwOps) :
    (i.op ∈ shiftOps ∧ i.operand = .acc ∧ composedCycles i = 2) ∨ ∃ m, i.operand = .mem m ∧ (m.mode, composedCycles i) ∈
      [(.zp, 5), (.zpx, 6), (.abs, 6), (.abx, 7)] := by
  have hrow := rmwOps_rows _ (mem_instructionTable i) hop
  cases ho : i.operand with
  | acc => exact .inl (by simpa [ho, Operand.mode] using hrow)
  | mem m =>
    refine .inr ⟨m, rfl, (ho ▸ hrow).resolve_left fun h => ?_⟩
    cases m <;> cases h.2.1
  | imm v | imp | pad b | rel off => simp [ho, Operand.mode] at hrow

theorem rmwOps_disjoint : ∀ op ∈ rmwOps, op ∉ readOps := by decide

/-- The line of a read-modify-write operation: in a memory mode the fetch, the mode's requests with the extra cycle
always, a read and two writes; on A the single cycle (R195). -/
theorem encodingLine_of_modify {op : Op} (hop : op ∈ rmwOps) {line : List (Byte × Mode × Nat)}
    (hline : line.Perm (tableLine op)) : encodingLine op line := by
  refine encodingLine_of_tableLine hline fun i s hi => ?_
  have hmodify : i.op ∈ rmwOps := hi ▸ hop
  have hextra := indexExtra_of_not_mem_readOps (rmwOps_disjoint _ hmodify) s
  obtain ⟨hshift, ho, hcycles⟩ | ⟨m, ho, hcycles⟩ := operand_of_mem_rmwOps hmodify
  · obtain ⟨t, ht, -, -, -, -, -, -, -, -, -, -, hhist⟩ := exec_modify_acc hshift ho s
    exact ⟨t, ht, by rw [hhist, hcycles, hextra]; rfl⟩
  · obtain ⟨t, ht, hhist, -⟩ := modifiesMemory_of_mem_rmwOps hmodify ho s
    refine ⟨t, ht, ?_⟩
    rw [hhist, hextra]
    cases m with
    | zp z | zpx z | abs a | abx a =>
      simp [MemOperand.mode] at hcycles
      simp [hcycles, resolve, indexCycle_history]
    | zpy z | aby a | izx a | izy a | ind a => simp [MemOperand.mode] at hcycles

/-- Settles O32: the forms on A are single cycles, those on memory read-modify-write, with one function for both. -/
theorem shiftsAndRotates : Obligations.ShiftsAndRotates := by
  unfold Obligations.ShiftsAndRotates
  refine ⟨encodingLine_of_modify (by decide) (by decide), encodingLine_of_modify (by decide) (by decide),
    encodingLine_of_modify (by decide) (by decide), encodingLine_of_modify (by decide) (by decide), fun i s hop => ?_⟩
  have hshift : i.op ∈ shiftOps := by simpa [shiftOps] using hop
  exact ⟨fun ho => exec_modify_acc hshift ho s,
    fun m ho => modifiesMemory_of_mem_rmwOps (shiftOps_subset_rmwOps hshift) ho s⟩

/-- Settles O33: INC and DEC are read-modify-write operations that leave C. -/
theorem memoryIncrementAndDecrement : Obligations.MemoryIncrementAndDecrement := by
  unfold Obligations.MemoryIncrementAndDecrement
  refine ⟨encodingLine_of_modify (by decide) (by decide), encodingLine_of_modify (by decide) (by decide),
    fun i m s hop ho => modifiesMemory_of_mem_rmwOps ?_ ho s⟩
  rcases hop with hop | hop <;> rw [hop] <;> decide

end Sys2Proof
end

section
/-! What the stack operations do to memory and to the requests: a push stores one byte in page 1, a pull reads one
(10_state.md R23, 43_handbuilt.md R229). -/

namespace Sys2Proof

open Sys2Proof.Machine Sys2Proof.Claims

theorem stackAddress_injective : Function.Injective stackAddress := fun _ _ h => (cat_inj h).2

theorem add_one_add_one_eq {n : Nat} (b : BitVec n) : b + 1 + 1 = b + 2 :=
  (BitVec.add_assoc b 1 1).trans (congrArg (b + ·) (BitVec.ofNat_add 1 1).symm)

theorem sub_one_sub_one_eq (b : Byte) : b - 1 - 1 = b - 2 := by rw [sub_sub]; rfl

theorem ne_sub_of_ne_zero {b d : Byte} (h : d ≠ 0) : b ≠ b - d := fun he => h (sub_eq_self.mp he.symm)

/-! ### Pushes -/

/-- What a push makes of memory depends on S, memory and the host's addresses alone. -/
theorem push_mem_congr {s u : State} (hsp : u.regs.s = s.regs.s) (hmem : u.mem = s.mem)
    (hhost : u.hostRegions = s.hostRegions) (v : Byte) : (u.push v).mem = (s.push v).mem := by
  simp [State.push_mem, State.perform_write_mem, State.hostAnswers_congr hhost, hsp, hmem]

theorem push_byteStored {s u : State} (hwf : s.mem.wf = true → u.mem.wf = true)
    (hhost : u.hostRegions = s.hostRegions) (v : Byte) : byteStored (stackAddress u.regs.s) v s (u.push v) :=
  busWrite_byteStored hwf hhost _ _

/-- A byte stored before is still there after a push to another address. -/
theorem byteStored_push {s u : State} {w : Word} {b : Byte} (h : byteStored w b s u) (hne : w ≠ stackAddress u.regs.s)
    (v : Byte) : byteStored w b s (u.push v) := fun hs hplain =>
  (busWrite_bytesKeptExcept u _ v w.toNat (by simpa [BitVec.toNat_inj] using hne.symm)).trans (h hs hplain)

theorem bytesKeptExcept_push {s u : State} {stored : List Word} (h : bytesKeptExcept stored s u) (v : Byte) :
    bytesKeptExcept (stored ++ [stackAddress u.regs.s]) s (u.push v) := fun a ha =>
  (busWrite_bytesKeptExcept u _ v a fun w hw => ha w (List.mem_append_right _ hw)).trans
    (h a fun w hw => ha w (List.mem_append_left _ hw))

/-- One push: the byte is at the address S pointed to, every other byte is kept. -/
theorem push_memory (s : State) (v : Byte) :
    byteStored (stackAddress s.regs.s) v s (s.push v) ∧ bytesKeptExcept [stackAddress s.regs.s] s (s.push v) :=
  ⟨push_byteStored id rfl v, bytesKeptExcept_push (stored := []) (fun _ _ => rfl) v⟩

/-- Two pushes, one below the other, as of a return address. -/
theorem push_push_memory (s : State) (v1 v2 : Byte) :
    let u := (s.push v1).push v2
    byteStored (stackAddress s.regs.s) v1 s u ∧ byteStored (stackAddress (s.regs.s - 1)) v2 s u ∧
      bytesKeptExcept [stackAddress s.regs.s, stackAddress (s.regs.s - 1)] s u := by
  obtain ⟨hstored, hkept⟩ := push_memory s v1
  have hsp : (s.push v1).regs.s = s.regs.s - 1 := by simp
  have hne : stackAddress s.regs.s ≠ stackAddress (s.push v1).regs.s :=
    hsp ▸ stackAddress_injective.ne (ne_sub_of_ne_zero (by decide))
  exact ⟨byteStored_push hstored hne v2, hsp ▸ push_byteStored (State.push_mem_wf v1 s) (by simp) v2,
    hsp ▸ bytesKeptExcept_push hkept v2⟩

/-- Three pushes, as of a return address and P. -/
theorem push_push_push_memory (s : State) (v1 v2 v3 : Byte) :
    let u := ((s.push v1).push v2).push v3
    byteStored (stackAddress s.regs.s) v1 s u ∧ byteStored (stackAddress (s.regs.s - 1)) v2 s u ∧
      byteStored (stackAddress (s.regs.s - 2)) v3 s u ∧
      bytesKeptExcept [stackAddress s.regs.s, stackAddress (s.regs.s - 1), stackAddress (s.regs.s - 2)] s u := by
  obtain ⟨hstored1, hstored2, hkept⟩ := push_push_memory s v1 v2
  have hsp : ((s.push v1).push v2).regs.s = s.regs.s - 2 := by
    rw [← sub_one_sub_one_eq]; simp
  have hne1 : stackAddress s.regs.s ≠ stackAddress (s.regs.s - 2) :=
    stackAddress_injective.ne (ne_sub_of_ne_zero (by decide))
  have hne2 : stackAddress (s.regs.s - 1) ≠ stackAddress (s.regs.s - 2) :=
    stackAddress_injective.ne (sub_one_sub_one_eq s.regs.s ▸ ne_sub_of_ne_zero (by decide))
  exact ⟨byteStored_push hstored1 (hsp ▸ hne1) v3, byteStored_push hstored2 (hsp ▸ hne2) v3,
    hsp ▸ push_byteStored (fun hs => State.push_mem_wf v2 _ (State.push_mem_wf v1 s hs)) (by simp) v3,
    hsp ▸ bytesKeptExcept_push hkept v3⟩

/-! ### Pulls -/

/-- A pull answers what the bus holds above S, and changes S and the history alone. -/
theorem pull_eq (s : State) :
    s.pull = (byteAnswered s s.history (stackAddress (s.regs.s + 1)),
      { s with
        regs := { s.regs with s := s.regs.s + 1 }
        history := .read (stackAddress (s.regs.s + 1)) :: s.history }) := rfl

/-- The dummy cycles before a pull change PC and the history alone (R211). -/
theorem pullCycles_eq (s : State) :
    pullCycles s = { s with
      regs := { s.regs with pc := s.regs.pc + 1 }
      history := .read (stackAddress s.regs.s) :: .read (s.regs.pc + 1) :: .fetch s.regs.pc :: s.history } := rfl

/-- A pulled P has bit 5 set and B clear: the mask that clears B spares bit 5, so the write of P changes no further bit
(10_state.md R30). -/
theorem pullP_eq (d : Byte) (r : RegFile) : r.pullP d = { r with p := (d ||| 0x20) &&& 0xEF } := by
  have hp : ((d ||| 0x20) &&& 0xEF) ||| 0x20 = (d ||| 0x20) &&& 0xEF := by
    apply BitVec.eq_of_getLsbD_eq
    intro k hk
    interval_cases k <;> simp
  rw [RegFile.pullP, RegFile.writeP, hp]

end Sys2Proof
end

section
/-! The instructions that push: PHA, PHP, JSR, BRK (43_handbuilt.md R210, R213 to R215). -/

namespace Sys2Proof

open Sys2Proof.Machine Sys2Proof.Claims

/-! ### PHA and PHP -/

/-- A push of a register: two reads at PC, the write at the stack address, S one lower. -/
theorem exec_push {i : Instr} {source : RegFile → Byte} (hc : compositionOf i.entry = .push source) (s : State) :
    let v := source s.regs.incPc
    let sp := stackAddress s.regs.s
    ∃ t, exec i s = .next t ∧ t.regs = { s.regs with s := s.regs.s - 1, pc := s.regs.pc + 1 } ∧ controlKept s t ∧
      t.history = .write sp v :: .read (s.regs.pc + 1) :: .fetch s.regs.pc :: s.history ∧
      byteStored sp v s t ∧ bytesKeptExcept [sp] s t := by
  intro v sp
  obtain ⟨t, ht, hregs, hphase, hhost, -, hhist⟩ := pushRegister_spec source s
  have hmem : t.mem = (s.push v).mem := by
    cases ht
    apply push_mem_congr <;> rfl
  obtain ⟨hstored, hkept⟩ := push_memory s v
  refine ⟨t, by rw [exec_eq_runComposition, hc]; exact ht, hregs, ⟨hphase, hhost⟩, hhist, ?_, ?_⟩
  · rwa [byteStored, hmem]
  · rwa [bytesKeptExcept, hmem]

theorem pushedP_eq (r : RegFile) : r.pushedP = r.p ||| 0x30 := by
  simp [RegFile.pushedP, RegFile.readP, BitVec.or_assoc]

/-- Settles O37: both are the push of a byte of the registers, A or P with the bits B and U set. -/
theorem pushesWriteAtTheStackAddress : Obligations.PushesWriteAtTheStackAddress := by
  unfold Obligations.PushesWriteAtTheStackAddress
  refine ⟨rfl, rfl, fun i s hi => ?_⟩
  rcases hi with rfl | rfl
  · exact exec_push (i := .pha) rfl s
  · have hphp := exec_push (i := .php) rfl s
    rwa [opPhp, pushedP_eq] at hphp

/-! ### JSR -/

/-- JSR leaves memory as the pushes of the two bytes of the return address do. -/
theorem jumpSubroutine_mem {target : Word} {s t : State} (h : jumpSubroutine target s = .next t) :
    t.mem = ((s.push (hi (s.regs.pc + 2))).push (lo (s.regs.pc + 2))).mem := by
  rw [← add_one_add_one_eq]
  cases h
  simp [State.push_mem, State.perform_write_mem, State.hostAnswers]

/-- In plain memory the byte answered is the byte held. -/
theorem byteAnswered_of_plain {s : State} (h : s.plain) (earlier : List BusAccess) (a : Word) :
    byteAnswered s earlier a = s.mem.read a.toNat := by
  rw [State.plain] at h
  simp [byteAnswered, State.hostAnswers, h]

/-- Settles O39: the requests and registers are those of JSR's shape, its memory that of two pushes; where the pushes miss
the operand's high byte, the byte answered at it is the one they found. -/
theorem jsrPushesTheReturnAddress : Obligations.JsrPushesTheReturnAddress := by
  unfold Obligations.JsrPushesTheReturnAddress
  intro target s ret sp1 sp2
  obtain ⟨t, ht, hphase, hhost, hregs, hhist, -⟩ := jumpSubroutine_spec target s
  rw [add_one_add_one_eq] at hregs hhist
  rw [sub_one_sub_one_eq] at hregs
  obtain ⟨hstored1, hstored2, hkept⟩ := push_push_memory s (hi ret) (lo ret)
  have hmem := jumpSubroutine_mem ht
  have hkept' : bytesKeptExcept [sp1, sp2] s t := by rwa [bytesKeptExcept, hmem]
  refine ⟨rfl, t, ht, ⟨hphase, hhost⟩, hhist, hregs, by rwa [byteStored, hmem], by rwa [byteStored, hmem], hkept',
    fun hplain hhigh hne1 hne2 => ?_⟩
  have hread : byteAnswered t t.history.tail ret = hi target := by
    rw [byteAnswered_of_plain (hhost.trans hplain), hkept' _ (by simp [BitVec.toNat_inj, hne1.symm, hne2.symm]), hhigh]
  calc t.regs.pc = cat (byteAnswered t t.history.tail ret) (lo target) := by rw [hregs]; rfl
    _ = target := by rw [hread, cat_hi_lo]

/-! ### BRK -/

/-- BRK leaves memory as the pushes of the two bytes of the return address and of P do. -/
theorem breakInstruction_mem {pad : Byte} {s t : State} (h : breakInstruction pad s = .next t) :
    t.mem = (((s.push (hi (s.regs.pc + 2))).push (lo (s.regs.pc + 2))).push (s.regs.p ||| 0x30)).mem := by
  rw [← add_one_add_one_eq, ← pushedP_eq]
  cases h
  simp [State.enterBreak, State.push_mem, State.perform_write_mem, State.hostAnswers, RegFile.pushedP]

/-- The vector's bytes are answered after the pushes, low byte first. -/
theorem breakInstruction_pc {pad : Byte} {s t : State} (h : breakInstruction pad s = .next t) :
    t.regs.pc = cat (byteAnswered t t.history.tail breakVectorHigh)
      (byteAnswered t t.history.tail.tail breakVectorLow) := by
  cases h
  simp [State.enterBreak, byteAnswered, State.answer, State.hostAnswers]

/-- Settles O41: the requests and registers are those of BRK's shape, its memory that of three pushes. -/
theorem brkPushesAndVectors : Obligations.BrkPushesAndVectors := by
  unfold Obligations.BrkPushesAndVectors
  intro pad s ret sp1 sp2 sp3
  obtain ⟨t, ht, hphase, hhost, ha, hx, hy, hs, hp, hhist, -⟩ := breakInstruction_spec pad s
  rw [add_one_add_one_eq, sub_one_sub_one_eq, pushedP_eq] at hhist
  obtain ⟨hstored1, hstored2, hstored3, hkept⟩ := push_push_push_memory s (hi ret) (lo ret) (s.regs.p ||| 0x30)
  have hmem := breakInstruction_mem ht
  have hs' : t.regs.s = s.regs.s - 3 := by rw [hs, sub_sub, sub_sub]; rfl
  have hp' : t.regs.p = s.regs.p ||| 0x24 := by rw [hp, setFlag_true_eq, BitVec.or_assoc]; rfl
  refine ⟨rfl, t, ht, ⟨hphase, hhost⟩, hhist, ?_, ?_, ?_, ?_, ?_⟩
  · calc t.regs = ⟨t.regs.a, t.regs.x, t.regs.y, t.regs.s, t.regs.pc, t.regs.p⟩ := rfl
      _ = _ := by rw [ha, hx, hy, hs', hp', breakInstruction_pc ht]; rfl
  · rwa [byteStored, hmem]
  · rwa [byteStored, hmem]
  · rwa [byteStored, hmem]
  · rwa [bytesKeptExcept, hmem]

end Sys2Proof
end

section
/-! The instructions that pull: PLA, PLP, RTS, RTI (43_handbuilt.md R211, R212, R216, R217). -/

namespace Sys2Proof

open Sys2Proof.Machine Sys2Proof.Claims

/-- A pull into the registers: two dummy reads, the read above S, the function on the byte answered. -/
theorem exec_pull {i : Instr} {f : Byte → RegFile → RegFile} (hc : compositionOf i.entry = .pull f) (s : State) :
    let up := stackAddress (s.regs.s + 1)
    let h := (pullCycles s).history
    exec i s = .next { s with
      regs := f (byteAnswered s h up) { s.regs with s := s.regs.s + 1, pc := s.regs.pc + 1 }
      history := .read up :: h } := by
  rw [exec_eq_runComposition, hc]
  rfl

/-- Settles O38: both are a pull into the registers; PLA's function writes A and P by `N, Z from` it, PLP's writes P. -/
theorem pullsReadAboveTheStackAddress : Obligations.PullsReadAboveTheStackAddress := by
  unfold Obligations.PullsReadAboveTheStackAddress
  refine ⟨rfl, rfl, fun i s hi => ?_⟩
  rcases hi with rfl | rfl
  · refine ⟨_, exec_pull (i := .pla) rfl s, rfl, rfl, rfl, rfl, rfl, fun _ => rfl, ⟨rfl, rfl⟩, fun _ => ⟨rfl, ?_⟩, nofun⟩
    exact nzFrom_and_flagsKept rfl
  · refine ⟨_, exec_pull (i := .plp) rfl s, rfl, rfl, rfl, rfl, rfl, fun _ => rfl, ⟨rfl, rfl⟩, nofun, fun _ => ⟨rfl, ?_⟩⟩
    show (opPlp _ _).p = _
    rw [opPlp, pullP_eq]
    rfl

/-- Settles O40: two pulls after the dummy cycles, and the read at the address they give. -/
theorem rtsReturnsPastThePulledAddress : Obligations.RtsReturnsPastThePulledAddress := by
  unfold Obligations.RtsReturnsPastThePulledAddress
  intro s up1 up2 h low high
  refine ⟨rfl, ?_⟩
  show returnSubroutine s = _
  simp only [returnSubroutine, pullCycles_eq, pull_eq, add_one_add_one_eq]
  rfl

/-- Settles O42: three pulls after the dummy cycles, the first into P. -/
theorem rtiRestoresStatusAndPc : Obligations.RtiRestoresStatusAndPc := by
  unfold Obligations.RtiRestoresStatusAndPc
  intro s up1 up2 up3 h d low high
  refine ⟨rfl, ?_⟩
  have hthree : s.regs.s + 2 + 1 = s.regs.s + 3 := by simp [BitVec.add_assoc]
  show returnInterrupt s = _
  simp only [returnInterrupt, State.returnFromInterrupt, pullCycles_eq, pull_eq, pullP_eq, State.mapRegs, State.setRegs,
    add_one_add_one_eq, hthree]
  rfl

end Sys2Proof
end

section
/-! The jumps and the branches (43_handbuilt.md R218 to R228). -/

namespace Sys2Proof

open Sys2Proof.Machine Sys2Proof.Claims

/-! ### Jumps -/

theorem cat_and_cat (h l h' l' : Byte) : cat h l &&& cat h' l' = cat (h &&& h') (l &&& l') := BitVec.and_append

theorem cat_toNat (h l : Byte) : (cat h l).toNat = h.toNat * 256 + l.toNat := by
  rw [cat, BitVec.toNat_append, ← Nat.shiftLeft_add_eq_or_of_lt l.isLt, Nat.shiftLeft_eq]

/-- Below the end of a page the next address differs in its low byte alone. -/
theorem cat_add_one {l : Byte} (h : Byte) (hl : l ≠ 0xFF) : cat h (l + 1) = cat h l + 1 := by
  have hl' : l.toNat ≠ 255 := fun he => hl (BitVec.eq_of_toNat_eq he)
  apply BitVec.eq_of_toNat_eq
  simp only [cat_toNat, BitVec.toNat_add, BitVec.ofNat_eq_ofNat, BitVec.toNat_ofNat]
  omega

/-- The second byte of a pointer comes from the pointer's own page (41_addressing.md R170). -/
theorem cat_hi_lo_add_one (a : Word) :
    cat (hi a) (lo a + 1) = if lo a = 0xFF then a &&& 0xFF00 else a + 1 := by
  split
  next hlo =>
    calc cat (hi a) (lo a + 1) = cat (hi a &&& 0xFF) (lo a &&& 0x00) := by
          rw [hlo, show (0xFF : Byte) = BitVec.allOnes 8 from rfl, BitVec.and_allOnes]; rfl
      _ = cat (hi a) (lo a) &&& cat 0xFF 0x00 := (cat_and_cat _ _ _ _).symm
      _ = a &&& 0xFF00 := by rw [cat_hi_lo]; rfl
  next hlo => rw [cat_add_one _ hlo, cat_hi_lo]

/-- Settles O43: with the pointer's second address and `PC + 2` in the form the modes compute them in, both are runs of the
jump shape. -/
theorem jumpsReplaceThePc : Obligations.JumpsReplaceThePc := by
  unfold Obligations.JumpsReplaceThePc
  simp only [← cat_hi_lo_add_one, ← add_one_add_one_eq]
  exact fun a s => ⟨⟨rfl, rfl⟩, rfl, rfl⟩

/-! ### Branches -/

/-- A branch's condition is the test of its flag (R221 to R228). -/
theorem compositionOf_of_branchTest {op : Op} {f : Flag} {v : Bool} (h : branchTest op = some (f, v)) (mode : Mode) :
    ∃ cond, compositionOf ⟨op, mode⟩ = .branch cond ∧ ∀ r, cond r = true ↔ r.flag f = v := by
  unfold branchTest at h
  split at h <;> cases h
  · exact ⟨condBpl, rfl, fun r => by simp [condBpl]⟩
  · exact ⟨condBmi, rfl, fun r => Iff.rfl⟩
  · exact ⟨condBvc, rfl, fun r => by simp [condBvc]⟩
  · exact ⟨condBvs, rfl, fun r => Iff.rfl⟩
  · exact ⟨condBcc, rfl, fun r => by simp [condBcc]⟩
  · exact ⟨condBcs, rfl, fun r => Iff.rfl⟩
  · exact ⟨condBne, rfl, fun r => by simp [condBne]⟩
  · exact ⟨condBeq, rfl, fun r => Iff.rfl⟩

theorem branchTarget_eq_ofInt (base : Word) (off : Byte) :
    branchTarget base off = BitVec.ofInt 16 ((base.toNat : Int) + off.toInt) := by
  rw [BitVec.ofInt_add, BitVec.ofInt_natCast, BitVec.ofNat_toNat, BitVec.setWidth_eq]
  rfl

/-- A branch whose condition fails makes two reads and goes on. -/
theorem branch_of_not_cond {cond : RegFile → Bool} {s : State} (h : ¬cond s.regs.incPc.incPc = true) (off : Byte) :
    branch cond off s = .next { s with
      regs := { s.regs with pc := s.regs.pc + 2 }
      history := .read (s.regs.pc + 1) :: .fetch s.regs.pc :: s.history } := by
  rw [← add_one_add_one_eq]
  exact if_neg h

/-- A branch whose condition holds reads once more where it would have gone on, and ends as an indexed mode does. -/
theorem branch_of_cond {cond : RegFile → Bool} {s : State} (h : cond s.regs.incPc.incPc = true) (off : Byte) :
    let base := s.regs.pc + 2
    let ea := branchTarget base off
    branch cond off s = .next (indexCycle false base ea { s with
      regs := { s.regs with pc := ea }
      history := .read base :: .read (s.regs.pc + 1) :: .fetch s.regs.pc :: s.history }) := by
  rw [← add_one_add_one_eq]
  exact if_pos h

theorem indexCycle_false_of_hi_eq {base ea : Word} (h : hi ea = hi base) (s : State) :
    indexCycle false base ea s = s := by
  simp [indexCycle, crossed, h]

theorem indexCycle_false_of_hi_ne {base ea : Word} (h : hi ea ≠ hi base) (s : State) :
    indexCycle false base ea s = s.dummyRead (cat (hi base) (lo ea)) := by
  simp [indexCycle, crossed, h.symm, unfixed]

/-- Settles O44: each branch runs the branch machine with the test of its flag as condition. -/
theorem branchesTestTheirFlag : Obligations.BranchesTestTheirFlag := by
  unfold Obligations.BranchesTestTheirFlag
  refine ⟨fun off => ⟨rfl, rfl, rfl, rfl, rfl, rfl, rfl, rfl⟩, fun i off f v s htest ho => ?_⟩
  intro base ea h
  obtain ⟨cond, hc, hcond⟩ := compositionOf_of_branchTest htest i.operand.mode
  have hflag : cond s.regs.incPc.incPc = true ↔ s.regs.flag f = v := hcond _
  have hea : branchTarget base off = ea := branchTarget_eq_ofInt base off
  have hexec : exec i s = branch cond off s := by rw [exec_eq_runComposition, Instr.entry, hc, ho]; rfl
  rw [hexec]
  refine ⟨fun hnot => branch_of_not_cond (mt hflag.mp hnot) off, fun htaken hpage => ?_, fun htaken hpage => ?_⟩
  · rw [branch_of_cond (hflag.mpr htaken), hea, indexCycle_false_of_hi_eq hpage]
  · rw [branch_of_cond (hflag.mpr htaken), hea, indexCycle_false_of_hi_ne hpage]
    rfl

end Sys2Proof
end

section
/-! The one exception, IllegalOpcode (60_exceptions.md R260, R264): the step of a whole instruction and the arbiter's cycle
take it alike. -/

namespace Sys2Proof

open Sys2Proof.Machine Sys2Proof.Claims

/-- The cycle in phase Fetch is the opcode fetch (45_arbiter.md R241). -/
theorem cycle_of_fetch {s : State} (hs : s.phase = .fetch) :
    cycle s = advance (s.answer s.regs.pc) (s.perform (.fetch s.regs.pc)) := by
  simp [cycle, request, hs, answerTo]

theorem cycle_eq_takeIllegalOpcode {s : State} (hs : s.phase = .fetch) (h : entryOf (s.answer s.regs.pc) = none) :
    cycle s = .next (s.takeIllegalOpcode (s.answer s.regs.pc)) := by
  rw [cycle_of_fetch hs]
  exact advance_of_entryOf_eq_none (s := s.perform (.fetch s.regs.pc)) h hs

/-- Where the byte at PC has no entry, the fetched bytes do not decode, whatever the two after it are. -/
theorem step_eq_takeIllegalOpcode {s : State} (hs : s.phase = .fetch) (h : entryOf (s.answer s.regs.pc) = none) :
    step s = .next (s.takeIllegalOpcode (s.answer s.regs.pc)) := by
  have hdecode : decode s.fetchedBytes = .error (.illegalOpcode (s.answer s.regs.pc)) := decode_of_entryOf_eq_none h _
  simp [step, hs, hdecode]

/-- Settles O9: a listed opcode has no entry, so that both the step and the cycle are the opcode fetch and the phase. -/
theorem illegalOpcodeHaltsTheBlock : Obligations.IllegalOpcodeHaltsTheBlock := by
  unfold Obligations.IllegalOpcodeHaltsTheBlock
  intro s hs hillegal op t
  have hop : s.answer s.regs.pc = op := answer_eq_byteAnswered rfl rfl _
  have hnone : entryOf (s.answer s.regs.pc) = none := hop ▸ (mem_illegalOpcodes_iff op).mp hillegal
  exact ⟨step_eq_takeIllegalOpcode hs hnone, cycle_eq_takeIllegalOpcode hs hnone, rfl⟩

end Sys2Proof
end

section
/-! What the host writes: its registers (45_arbiter.md R246) and the hard reset (45_arbiter.md R247, 70_reset_and_hazards.md
R281). -/

namespace Sys2Proof

open Sys2Proof.Machine Sys2Proof.Claims

/-- Register by register: the host's value where it gives one, with bit 5 set for P (10_state.md R26), else the old one. -/
theorem hostWrite_apply_eq (w : HostWrite) (r : RegFile) :
    w.apply r =
      { a := w.a.getD r.a
        x := w.x.getD r.x
        y := w.y.getD r.y
        s := w.s.getD r.s
        pc := w.pc.getD r.pc
        p := (w.p.map (· ||| 0x20)).getD r.p } := by
  unfold HostWrite.apply
  cases w.p with
  | none => rfl
  | some v => rfl

theorem hostWrite_apply_p_of_some {w : HostWrite} {v : Byte} (h : w.p = some v) (r : RegFile) :
    (w.apply r).p = v ||| 0x20 := by
  simp [hostWrite_apply_eq, h]

theorem hostWrite_apply_p_of_none {w : HostWrite} (h : w.p = none) (r : RegFile) : (w.apply r).p = r.p := by
  simp [hostWrite_apply_eq, h]

/-- A hard reset changes the phase and the registers, these as a host write does, and nothing else. -/
theorem hardReset_eq (w : HostWrite) (s : State) :
    hardReset w s = { s with phase := .fetch, regs := w.apply s.regs } := rfl

/-- Settles O19: by `hardReset_eq` only the phase and the registers can differ, and the registers are those of the host's
write. -/
theorem hardResetDiscardsTheMachineOnly : Obligations.HardResetDiscardsTheMachineOnly := by
  unfold Obligations.HardResetDiscardsTheMachineOnly
  intro w s
  rw [hardReset_eq]
  have hregs := hostWrite_apply_eq w s.regs
  exact ⟨rfl, rfl, rfl, rfl, congrArg RegFile.a hregs, congrArg RegFile.x hregs, congrArg RegFile.y hregs,
    congrArg RegFile.s hregs, congrArg RegFile.pc hregs,
    fun v hv => hostWrite_apply_p_of_some hv s.regs, fun hp => hostWrite_apply_p_of_none hp s.regs⟩

end Sys2Proof
end


section
/-! The decoder and the encoder undo one another (30_encoding.md R70 to R72), and the step runs what is decoded at PC
(45_arbiter.md R241). -/

namespace Sys2Proof

open Sys2Proof.Machine Sys2Proof.Claims

/-! ### Decode of encode, encode of decode -/

theorem instr_wellFormed (i : Instr) : i.wellFormed = true := by
  cases i <;> rfl

theorem entry_wellFormed (i : Instr) : i.entry.wellFormed = true :=
  (Bool.and_eq_true_iff.mp (instr_wellFormed i)).1

theorem operand_padFits (i : Instr) : i.operand.padFits i.op = true :=
  (Bool.and_eq_true_iff.mp (instr_wellFormed i)).2

/-- The operand bytes of an instruction are read back as its operand, whatever follows them. -/
theorem takeOperand_entry (i : Instr) (rest : List Byte) :
    takeOperand i.entry (i.operand.bytes ++ rest) = some (i.operand, rest) :=
  takeOperand_bytes i.op i.operand (operand_padFits i) rest

theorem decode_encode (i : Instr) (rest : List Byte) : decode (encode i ++ rest) = .ok i rest := by
  simp [encode, decode, entryOf_opcode, takeOperand_entry, show i.entry.op = i.op from rfl, assemble_op_operand]

/-- What is read as an operand has the entry's mode, and its bytes are the ones taken (R71). -/
theorem takeOperand_eq_some {e : Entry} {bytes tail : List Byte} {o : Operand}
    (h : takeOperand e bytes = some (o, tail)) : bytes = o.bytes ++ tail ∧ o.mode = e.mode := by
  unfold takeOperand at h
  split at h
  case h_1 hmode =>
    split at h <;> cases h <;> exact ⟨rfl, hmode.symm⟩
  all_goals cases h
  all_goals simp_all [Operand.bytes, Operand.mode, MemOperand.bytes, MemOperand.mode]

theorem assemble_eq_some {op : Op} {o : Operand} {i : Instr} (h : assemble op o = some i) :
    i.op = op ∧ i.operand = o := by
  have hspec := assemble_eq op o
  rw [h, Option.map_some] at hspec
  split at hspec
  · exact Prod.mk.inj (Option.some.inj hspec)
  · cases hspec

/-- The bytes that decode to an instruction begin with an opcode of its entry and the bytes of its operand. -/
theorem decode_eq_ok {bytes rest : List Byte} {i : Instr} (h : decode bytes = .ok i rest) :
    ∃ op, entryOf op = some i.entry ∧ bytes = op :: (i.operand.bytes ++ rest) := by
  unfold decode at h
  split at h
  · cases h
  next op bs =>
    split at h
    · cases h
    next e he =>
      split at h
      · cases h
      next o tail htake =>
        split at h
        next j hassemble =>
          obtain ⟨rfl, rfl⟩ := DecodeResult.ok.inj h
          obtain ⟨hop, ho⟩ := assemble_eq_some hassemble
          obtain ⟨rfl, hmode⟩ := takeOperand_eq_some htake
          have hentry : j.entry = e := by simp [Instr.entry, hop, ho, hmode]
          exact ⟨op, hentry ▸ he, by rw [ho]⟩
        next => cases h

theorem eq_encode_append_of_decode {bytes rest : List Byte} {i : Instr} (h : decode bytes = .ok i rest) :
    bytes = encode i ++ rest := by
  obtain ⟨op, hop, rfl⟩ := decode_eq_ok h
  rw [entryOf_injective hop (entryOf_opcode i)]
  rfl

/-- Settles O1: the table gives back the entry from the opcode, `takeOperand` the operand, `assemble` the instruction.
-/
theorem decodeOfEncodeIsTheInstruction : Obligations.DecodeOfEncodeIsTheInstruction := decode_encode

/-- Settles O2: the bytes taken are an opcode of the instruction's entry, which determines it, and the operand's
bytes. -/
theorem encodeOfDecodeIsTheBytes : Obligations.EncodeOfDecodeIsTheBytes := fun _ _ _ => eq_encode_append_of_decode

/-- Settles O4: each word is what the instruction encodes to. -/
theorem decodingOfWrittenOutWords : Obligations.DecodingOfWrittenOutWords := by
  unfold Obligations.DecodingOfWrittenOutWords
  exact ⟨decode_encode (.ldaImm 0x5A) [], decode_encode (.stxZpy 0x80) [], decode_encode (.andAbx 0x1234) [],
    decode_encode (.adcIzx 0x32) [], decode_encode (.aslAbx 0x12FF) [], decode_encode (.incZp 0x10) [],
    decode_encode .tsx [], decode_encode .sed [], decode_encode (.jmpInd 0x30FF) [], decode_encode (.jsr 0x1234) [],
    decode_encode (.brk 0xEA) [], decode_encode .plp [], decode_encode (.bne 0xFA) []⟩

/-- Settles O5: constructor by constructor, the bytes of the operand form are as many as its mode has, and one for
BRK. -/
theorem lengthIsFixedByTheMode : Obligations.LengthIsFixedByTheMode := by
  unfold Obligations.LengthIsFixedByTheMode
  refine fun i => ⟨?_, entryOf_opcode i⟩
  cases i <;> rfl

/-! ### Branch offsets -/

/-- A word within the range of a signed byte is the sign extension of its low byte. -/
theorem lo_ofInt_toInt {d : Int} (h : -128 ≤ d ∧ d ≤ 127) : (lo (BitVec.ofInt 16 d)).toInt = d := by
  have hlo : lo (BitVec.ofInt 16 d) = BitVec.ofInt 8 d := by
    apply BitVec.eq_of_toNat_eq
    simp [lo, BitVec.toNat_ofInt]
    omega
  rw [hlo, BitVec.toInt_ofInt_eq_self (by decide) (by omega) (by omega)]

theorem sub_eq_ofInt (a t : Word) : t - (a + 2) = BitVec.ofInt 16 ((t.toNat : Int) - ((a.toNat : Int) + 2)) := by
  apply BitVec.eq_of_toNat_eq
  simp only [BitVec.toNat_ofInt, BitVec.toNat_sub, BitVec.toNat_add, BitVec.ofNat_eq_ofNat, BitVec.toNat_ofNat]
  omega

/-- An assembled offset is the exact difference. -/
theorem branchOffset_toInt {a t : Word} {b : Byte} (h : branchOffset a t = some b) :
    b.toInt = (t.toNat : Int) - ((a.toNat : Int) + 2) := by
  obtain ⟨hrange, hb⟩ := Option.ite_none_right_eq_some.mp h
  rw [← Option.some.inj hb, sub_eq_ofInt]
  exact lo_ofInt_toInt (of_decide_eq_true hrange)

/-- Settles O6: an assembled offset is the exact difference, so adding it to `a + 2` gives the target. -/
theorem assembledBranchesReachTheirTarget : Obligations.AssembledBranchesReachTheirTarget := by
  unfold Obligations.AssembledBranchesReachTheirTarget
  refine fun a t => ⟨fun b hb => ⟨?_, branchOffset_toInt hb⟩, ?_⟩
  · have hsext : sext16 b = t - (a + 2) := by
      rw [sub_eq_ofInt, ← branchOffset_toInt hb]; rfl
    rw [targetOf, hsext, add_sub_cancel]
  · simp only [branchOffset, ite_eq_right_iff, reduceCtorEq, imp_false, branchInRange, decide_eq_true_eq]
    omega

/-! ### The step in phase Fetch -/

/-- Settles O7: by the step's equation in phase Fetch. -/
theorem stepRunsTheDecodedInstruction : Obligations.StepRunsTheDecodedInstruction := by
  unfold Obligations.StepRunsTheDecodedInstruction
  intro s i rest hs hdecode
  simp only [step, hs, hdecode]

/-- On a bus of plain memory the fetched bytes are those at PC, PC + 1 and PC + 2. -/
theorem fetchedBytes_of_plain {s : State} (h : s.plain) :
    s.fetchedBytes = (List.range 3).map fun k => s.mem.read (s.regs.pc + BitVec.ofNat 16 k).toNat := by
  have hthree : s.fetchedBytes =
      [byteAnswered s s.history s.regs.pc, byteAnswered s s.opcodeFetch.history (s.regs.pc + 1),
        byteAnswered s s.opcodeFetch.operandFetch.history (s.regs.pc + 1 + 1)] := rfl
  simp [hthree, byteAnswered_of_plain h, List.range_succ, BitVec.add_assoc, Nat.mod_eq_of_lt s.regs.pc.isLt]

theorem encode_length_le (i : Instr) : (encode i).length ≤ 3 := by
  cases i <;> simp [encode, Instr.operand, Operand.bytes, MemOperand.bytes]

/-- Settles O8: the fetched bytes begin with the encoding, which decodes to the instruction whatever follows. -/
theorem stepRunsTheInstructionInMemory : Obligations.StepRunsTheInstructionInMemory := by
  unfold Obligations.StepRunsTheInstructionInMemory
  intro s i hs hplain hmem
  have hprefix : encode i <+: s.fetchedBytes := by
    rw [fetchedBytes_of_plain hplain, List.prefix_iff_getElem?]
    intro k hk
    have hk3 : k < 3 := Nat.lt_of_lt_of_le hk (encode_length_le i)
    rw [← List.getElem?_eq_getElem, hmem k hk]
    simp [hk3]
  obtain ⟨rest, hrest⟩ := hprefix
  exact stepRunsTheDecodedInstruction s i rest hs (hrest ▸ decode_encode i rest)

end Sys2Proof
end

section
/-! What a composition of the Compiler (42_compiler.md R191) does to the registers, on both ways of running it: a
relation that its register functions keep is kept by the whole instruction and by each of its cycles. -/

namespace Sys2Proof

open Sys2Proof.Machine Sys2Proof.Claims

/-- Every function a composition applies to the registers, but for writes of PC, keeps `R`. -/
def Respects (R : RegFile → RegFile → Prop) : Composition → Prop
  | .read f => ∀ m r, R r (f m r)
  | .rmw f => ∀ m r, R r (f m r).2
  | .implied f => ∀ r, R r (f r)
  | .jsr | .rts | .push _ => ∀ v r, R r (r.setS v)
  | .rti => (∀ v r, R r (r.setS v)) ∧ ∀ d r, R r (r.pullP d)
  | .brk => (∀ v r, R r (r.setS v)) ∧ ∀ r, R r (r.setFlag .i true)
  | .pull f => (∀ v r, R r (r.setS v)) ∧ ∀ d r, R r (f d r)
  | .write _ | .jump | .branch _ => True

/-- A relation between Register Files that goes along with any number of changes, writes of PC among them. -/
structure IgnoresPc (R : RegFile → RegFile → Prop) : Prop where
  refl : ∀ r, R r r
  trans : ∀ {r r' r''}, R r r' → R r' r'' → R r r''
  setPc : ∀ v r, R r (r.setPc v)

/-- Keeping the value of `g` is such a relation, where `g` does not read PC. -/
theorem ignoresPc_of_eq {α : Type} {g : RegFile → α} (hg : ∀ v r, g (r.setPc v) = g r) :
    IgnoresPc fun r r' => g r' = g r where
  refl _ := rfl
  trans h h' := h'.trans h
  setPc := hg

section
variable {R : RegFile → RegFile → Prop} (hR : IgnoresPc R)
include hR

theorem IgnoresPc.incPc (r : RegFile) : R r r.incPc := hR.setPc _ r

/-- The return from an interrupt is three pulls, one of them into P, and a write of PC. -/
theorem returnFromInterrupt_regs_of_respects (hc : Respects R .rti) (s : State) :
    R s.regs s.returnFromInterrupt.regs := by
  obtain ⟨hs, hp⟩ := hc
  exact hR.trans (hs _ _) (hR.trans (hp _ _) (hR.trans (hs _ _) (hR.trans (hs _ _) (hR.setPc _ _))))

/-- The vectored transfer is three pushes, a write of I and a write of PC. -/
theorem enterBreak_regs_of_respects (hc : Respects R .brk) (s : State) : R s.regs s.enterBreak.regs := by
  obtain ⟨hs, hi⟩ := hc
  simp only [State.enterBreak, State.mapRegs_regs, State.busRead_snd, State.perform_regs, State.push_regs]
  exact hR.trans (hs _ _) (hR.trans (hs _ _) (hR.trans (hs _ _) (hR.trans (hi _) (hR.setPc _ _))))

/-- A composition, run whole, keeps what it respects; where the operand is not one of its forms, nothing happens. -/
theorem runComposition_regs_of_respects {c : Composition} (hc : Respects R c) (o : Operand) (s : State) :
    ∃ t, runComposition c o s = .next t ∧ R s.regs t.regs := by
  have hnothing : ∃ t, Host.Outcome.next s = (.next t : Result) ∧ R s.regs t.regs := ⟨s, rfl, hR.refl _⟩
  have hpc : ∀ v, R s.regs (s.regs.incPc.setPc v) := fun v => hR.setPc v _
  cases c with
  | read f =>
    cases o with
    | imm v =>
      obtain ⟨t, ht, hregs, -⟩ := readImmediate_spec f v s
      exact ⟨t, ht, hregs ▸ hR.trans (hpc _) (hc _ _)⟩
    | mem m =>
      obtain ⟨t, ht, hregs, -⟩ := readMemory_spec f m s
      exact ⟨t, ht, hregs ▸ hR.trans (hpc _) (hc _ _)⟩
    | imp | pad b | acc | rel off => exact hnothing
  | write source =>
    cases o with
    | mem m =>
      obtain ⟨t, ht, hregs, -⟩ := storeMemory_spec source m s
      exact ⟨t, ht, hregs ▸ hpc _⟩
    | imp | pad b | acc | imm v | rel off => exact hnothing
  | rmw f =>
    cases o with
    | mem m =>
      obtain ⟨t, ht, hregs, -⟩ := modifyMemory_spec f m s
      exact ⟨t, ht, hregs ▸ hR.trans (hpc _) (hc _ _)⟩
    | imp | pad b | acc | imm v | rel off => exact hnothing
  | implied f =>
    obtain ⟨t, ht, hregs, -⟩ := implied_spec f s
    exact ⟨t, ht, hregs ▸ hR.trans (hR.incPc _) (hc _)⟩
  | jump =>
    cases o with
    | mem m =>
      obtain ⟨t, ht, hregs, -⟩ := jump_spec m s
      exact ⟨t, ht, hregs ▸ hR.setPc _ _⟩
    | imp | pad b | acc | imm v | rel off => exact hnothing
  | jsr =>
    cases o with
    | mem m =>
      cases m with
      | abs a =>
        obtain ⟨t, ht, -, -, hregs, -⟩ := jumpSubroutine_spec a s
        exact ⟨t, ht, hregs ▸ hR.trans (hc _ _) (hR.setPc _ _)⟩
      | zp z | zpx z | zpy z | abx a | aby a | izx p | izy p | ind a => exact hnothing
    | imp | pad b | acc | imm v | rel off => exact hnothing
  | rts =>
    obtain ⟨t, ht, -, -, -, hregs⟩ := returnSubroutine_spec s
    exact ⟨t, ht, hregs ▸ hR.trans (hc _ _) (hR.setPc _ _)⟩
  | rti =>
    have hskip : R s.regs (pullCycles s).regs := pullCycles_regs s ▸ hR.incPc _
    exact ⟨_, rfl, hR.trans hskip (returnFromInterrupt_regs_of_respects hR hc _)⟩
  | brk =>
    cases o with
    | pad b =>
      have hskip : R s.regs s.opcodeFetch.operandFetch.regs := hpc _
      exact ⟨_, rfl, hR.trans hskip (enterBreak_regs_of_respects hR hc _)⟩
    | imp | acc | imm v | mem m | rel off => exact hnothing
  | push source =>
    obtain ⟨t, ht, hregs, -⟩ := pushRegister_spec source s
    exact ⟨t, ht, hregs ▸ hR.trans (hR.incPc _) (hc _ _)⟩
  | pull f =>
    obtain ⟨hs, hf⟩ := hc
    obtain ⟨t, ht, hregs, -⟩ := pullRegister_spec f s
    exact ⟨t, ht, hregs ▸ hR.trans (hR.incPc _) (hR.trans (hs _ _) (hf _ _))⟩
  | branch cond =>
    cases o with
    | rel off =>
      obtain ⟨t, ht, hregs, -⟩ := branch_spec cond off s
      exact ⟨t, ht, hregs ▸ hR.setPc _ _⟩
    | imp | pad b | acc | imm v | mem m => exact hnothing

theorem exec_regs_of_respects {i : Instr} (hc : Respects R (compositionOf i.entry)) (s : State) :
    ∃ t, exec i s = .next t ∧ R s.regs t.regs := by
  rw [exec_eq_runComposition]
  exact runComposition_regs_of_respects hR hc i.operand s

end

/-! ### The writers of each register and flag (10_state.md R21 to R34) -/

/-- A composition respects a relation that is kept by the writes its operation is listed for. -/
theorem respects_of_writers {R : RegFile → RegFile → Prop} (hR : IgnoresPc R) {op : Op} (mode : Mode)
    (ha : op ∈ aWriters → ∀ v r, R r (r.setA v)) (hx : op ∈ xWriters → ∀ v r, R r (r.setX v))
    (hy : op ∈ yWriters → ∀ v r, R r (r.setY v)) (hs : op ∈ sWriters → ∀ v r, R r (r.setS v))
    (hf : ∀ g, op ∈ flagWriters g → ∀ b r, R r (r.setFlag g b))
    (hp : op ∈ flagWriters .b → ∀ d r, R r (r.pullP d)) : Respects R (compositionOf ⟨op, mode⟩) := by
  have hnz : op ∈ flagWriters .n → ∀ v r, R r (r.setNZ v) := fun h v r => hR.trans (hf .n h _ r) (hf .z h _ _)
  have hcnz : op ∈ flagWriters .n → op ∈ flagWriters .c → ∀ b v r, R r ((r.setFlag .c b).setNZ v) :=
    fun h h' b v r => hR.trans (hf .c h' b r) (hnz h v _)
  have hshift : ∀ {f : Byte → RegFile → Byte × RegFile}, op ∈ aWriters → (∀ m r, R r (f m r).2) →
      Respects R (shiftComposition f mode) := by
    intro f h hmodify
    cases mode with
    | acc => exact fun r => hR.trans (hmodify _ r) (ha h _ _)
    | imp | imm | zp | zpx | zpy | abs | abx | aby | izx | izy | ind | rel => exact hmodify
  cases op with
  | lda | and | ora | eor => exact fun m r => hR.trans (ha (by decide) _ r) (hnz (by decide) _ _)
  | ldx => exact fun m r => hR.trans (hx (by decide) _ r) (hnz (by decide) _ _)
  | ldy => exact fun m r => hR.trans (hy (by decide) _ r) (hnz (by decide) _ _)
  | adc | sbc =>
    exact fun m r => hR.trans (ha (by decide) _ r) (hR.trans (hf .n (by decide) _ _) (hR.trans (hf .v (by decide) _ _)
      (hR.trans (hf .z (by decide) _ _) (hf .c (by decide) _ _))))
  | cmp | cpx | cpy => exact fun m r => hcnz (by decide) (by decide) _ _ r
  | bit =>
    exact fun m r => hR.trans (hf .z (by decide) _ r) (hR.trans (hf .n (by decide) _ _) (hf .v (by decide) _ _))
  | asl | lsr | rol | ror => exact hshift (by decide) fun m r => hcnz (by decide) (by decide) _ _ r
  | inc | dec => exact fun m r => hnz (by decide) _ r
  | inx | dex | tax | tsx => exact fun r => hR.trans (hx (by decide) _ r) (hnz (by decide) _ _)
  | iny | dey | tay => exact fun r => hR.trans (hy (by decide) _ r) (hnz (by decide) _ _)
  | txa | tya => exact fun r => hR.trans (ha (by decide) _ r) (hnz (by decide) _ _)
  | txs => exact fun r => hs (by decide) _ r
  | clc | sec => exact fun r => hf .c (by decide) _ r
  | cli | sei => exact fun r => hf .i (by decide) _ r
  | clv => exact fun r => hf .v (by decide) _ r
  | cld | sed => exact fun r => hf .d (by decide) _ r
  | nop => exact fun r => hR.refl r
  | jsr | rts | pha | php => exact hs (by decide)
  | rti => exact ⟨hs (by decide), hp (by decide)⟩
  | brk => exact ⟨hs (by decide), hf .i (by decide) true⟩
  | pla => exact ⟨hs (by decide), fun d r => hR.trans (ha (by decide) _ r) (hnz (by decide) _ _)⟩
  | plp => exact ⟨hs (by decide), hp (by decide)⟩
  | sta | stx | sty | jmp | bpl | bmi | bvc | bvs | bcc | bcs | bne | beq => exact trivial

theorem setFlag_flag_of_ne {f g : Flag} (h : f ≠ g) (b : Bool) (r : RegFile) : (r.setFlag g b).flag f = r.flag f := by
  rw [RegFile.setFlag_flag, if_neg h]
  split
  next hu => rw [hu, RegFile.flag_u]
  next => rfl

/-- The operations that pull P write every flag but bit 5. -/
theorem eq_u_of_pulls {f : Flag} {op : Op} (hb : op ∈ flagWriters .b) (h : op ∉ flagWriters f) : f = .u := by
  simp only [flagWriters, List.mem_cons, List.not_mem_nil, or_false] at hb
  obtain rfl | rfl := hb <;> revert h <;> cases f <;> decide

theorem respects_flag {f : Flag} {op : Op} (h : op ∉ flagWriters f) (mode : Mode) :
    Respects (fun r r' => r'.flag f = r.flag f) (compositionOf ⟨op, mode⟩) := by
  refine respects_of_writers (ignoresPc_of_eq fun _ _ => rfl) mode (fun _ _ _ => rfl) (fun _ _ _ => rfl)
    (fun _ _ _ => rfl) (fun _ _ _ => rfl) (fun g hg b r => setFlag_flag_of_ne ?_ b r) fun hb d r => ?_
  · rintro rfl
    exact h hg
  · rw [eq_u_of_pulls hb h, RegFile.flag_u, RegFile.flag_u]

/-- Settles O48: every write of a flag is one its operation is listed for. -/
theorem onlyItsWritersChangeAFlag : Obligations.OnlyItsWritersChangeAFlag := by
  unfold Obligations.OnlyItsWritersChangeAFlag
  exact fun i s f h => exec_regs_of_respects (ignoresPc_of_eq fun _ _ => rfl) (respects_flag h i.operand.mode) s

/-- The registers an operation is not listed for, all at once. -/
def RegistersKept (op : Op) (r r' : RegFile) : Prop :=
  (op ∉ aWriters → r'.a = r.a) ∧ (op ∉ xWriters → r'.x = r.x) ∧ (op ∉ yWriters → r'.y = r.y) ∧
    (op ∉ sWriters → r'.s = r.s)

theorem ignoresPc_registersKept (op : Op) : IgnoresPc (RegistersKept op) where
  refl _ := ⟨fun _ => rfl, fun _ => rfl, fun _ => rfl, fun _ => rfl⟩
  trans := by
    rintro r r' r'' ⟨ha, hx, hy, hs⟩ ⟨ha', hx', hy', hs'⟩
    exact ⟨fun h => (ha' h).trans (ha h), fun h => (hx' h).trans (hx h), fun h => (hy' h).trans (hy h),
      fun h => (hs' h).trans (hs h)⟩
  setPc _ _ := ⟨fun _ => rfl, fun _ => rfl, fun _ => rfl, fun _ => rfl⟩

theorem respects_registersKept (op : Op) (mode : Mode) : Respects (RegistersKept op) (compositionOf ⟨op, mode⟩) :=
  respects_of_writers (ignoresPc_registersKept op) mode
    (fun h _ _ => ⟨fun h' => absurd h h', fun _ => rfl, fun _ => rfl, fun _ => rfl⟩)
    (fun h _ _ => ⟨fun _ => rfl, fun h' => absurd h h', fun _ => rfl, fun _ => rfl⟩)
    (fun h _ _ => ⟨fun _ => rfl, fun _ => rfl, fun h' => absurd h h', fun _ => rfl⟩)
    (fun h _ _ => ⟨fun _ => rfl, fun _ => rfl, fun _ => rfl, fun h' => absurd h h'⟩)
    (fun _ _ _ _ => ⟨fun _ => rfl, fun _ => rfl, fun _ => rfl, fun _ => rfl⟩)
    (fun _ _ _ => ⟨fun _ => rfl, fun _ => rfl, fun _ => rfl, fun _ => rfl⟩)

/-- Settles O49: every write of A, X, Y or S is one its operation is listed for. -/
theorem onlyItsWritersChangeARegister : Obligations.OnlyItsWritersChangeARegister := by
  unfold Obligations.OnlyItsWritersChangeARegister
  exact fun i s => exec_regs_of_respects (ignoresPc_registersKept i.op) (respects_registersKept i.op i.operand.mode) s

/-- P is not written, or is stored with bit 5 set (10_state.md R26). -/
def UnusedBitKept (r r' : RegFile) : Prop := r'.p = r.p ∨ r'.p.getLsbD 5 = true

theorem ignoresPc_unusedBitKept : IgnoresPc UnusedBitKept where
  refl _ := .inl rfl
  trans := by
    rintro r r' r'' h (heq | hset)
    · rwa [UnusedBitKept, heq]
    · exact .inr hset
  setPc _ _ := .inl rfl

theorem respects_unusedBitKept (e : Entry) : Respects UnusedBitKept (compositionOf e) :=
  respects_of_writers ignoresPc_unusedBitKept e.mode (fun _ _ _ => .inl rfl) (fun _ _ _ => .inl rfl)
    (fun _ _ _ => .inl rfl) (fun _ _ _ => .inl rfl) (fun g _ b r => .inr (RegFile.setFlag_bit5 g b r))
    fun _ _ r => .inr (RegFile.writeP_bit5 _ r)

/-- Settles O50: every write of P is a write of a flag or a pull, both of which store bit 5 set. -/
theorem noWriteClearsTheUnusedBit : Obligations.NoWriteClearsTheUnusedBit := by
  unfold Obligations.NoWriteClearsTheUnusedBit
  intro i s t ht
  obtain ⟨u, hu, hbit⟩ := exec_regs_of_respects ignoresPc_unusedBitKept (respects_unusedBitKept i.entry) s
  cases ht.symm.trans hu
  exact ⟨hbit, RegFile.flag_u _⟩

end Sys2Proof
end

section
/-! Which bytes of memory an instruction can change: the one at the address a store or read-modify-write delivers,
those of page 1 for a push, and no other (30_encoding.md R74, 41_addressing.md R173 to R177, 43_handbuilt.md R229). -/

namespace Sys2Proof

open Sys2Proof.Machine Sys2Proof.Claims

/-- The address is one the composition writes on this operand form, from this state. -/
def StoresAt (c : Composition) (o : Operand) (s : State) (a : Nat) : Prop :=
  match c with
  | .write _ | .rmw _ => ∃ m, o = .mem m ∧ a = (storeAddress m s).toNat
  | .jsr | .brk | .push _ => ∃ sp, a = (stackAddress sp).toNat
  | .read _ | .implied _ | .jump | .rts | .rti | .pull _ | .branch _ => False

/-- A composition, run whole, changes no byte but where it stores; where the operand is not one of its forms, nothing
happens. -/
theorem runComposition_mem (c : Composition) (o : Operand) (s : State) :
    ∃ t, runComposition c o s = .next t ∧ ∀ a, ¬StoresAt c o s a → t.mem.read a = s.mem.read a := by
  have hnothing : ∃ t, Host.Outcome.next s = (.next t : Result) ∧
      ∀ a, ¬StoresAt c o s a → t.mem.read a = s.mem.read a :=
    ⟨s, rfl, fun _ _ => rfl⟩
  cases c with
  | read f =>
    cases o with
    | imm v =>
      obtain ⟨t, ht, -, hmem, -⟩ := readImmediate_spec f v s
      exact ⟨t, ht, fun a _ => by rw [hmem]⟩
    | mem m =>
      obtain ⟨t, ht, -, hmem, -⟩ := readMemory_spec f m s
      exact ⟨t, ht, fun a _ => by rw [hmem]⟩
    | imp | pad b | acc | rel off => exact hnothing
  | write source =>
    cases o with
    | mem m =>
      obtain ⟨t, ht, -, hmem, -⟩ := storeMemory_spec source m s
      refine ⟨t, ht, fun a ha => ?_⟩
      have hne : a ≠ (resolve true m s.opcodeFetch).1.toNat := fun heq => ha ⟨m, rfl, heq⟩
      rw [hmem, State.perform_write_read_ne _ hne, resolve_mem]
      rfl
    | imp | pad b | acc | imm v | rel off => exact hnothing
  | rmw f =>
    cases o with
    | mem m =>
      obtain ⟨t, ht, -, -, -, hkept⟩ := modifyMemory_spec f m s
      exact ⟨t, ht, fun a ha => hkept a fun heq => ha ⟨m, rfl, heq⟩⟩
    | imp | pad b | acc | imm v | rel off => exact hnothing
  | implied f => exact ⟨_, rfl, fun _ _ => rfl⟩
  | jump =>
    cases o with
    | mem m =>
      obtain ⟨t, ht, -, hmem, -⟩ := jump_spec m s
      exact ⟨t, ht, fun a _ => by rw [hmem]⟩
    | imp | pad b | acc | imm v | rel off => exact hnothing
  | jsr =>
    cases o with
    | mem m =>
      cases m with
      | abs target =>
        obtain ⟨t, ht, -, -, -, -, hkept⟩ := jumpSubroutine_spec target s
        exact ⟨t, ht, fun a ha => hkept a (fun heq => ha ⟨_, heq⟩) fun heq => ha ⟨_, heq⟩⟩
      | zp z | zpx z | zpy z | abx a | aby a | izx p | izy p | ind a => exact hnothing
    | imp | pad b | acc | imm v | rel off => exact hnothing
  | rts =>
    obtain ⟨t, ht, -, -, hmem, -⟩ := returnSubroutine_spec s
    exact ⟨t, ht, fun a _ => by rw [hmem]⟩
  | rti =>
    obtain ⟨t, ht, -, -, hmem, -⟩ := returnInterrupt_spec s
    exact ⟨t, ht, fun a _ => by rw [hmem]⟩
  | brk =>
    cases o with
    | pad b =>
      obtain ⟨t, ht, -, -, -, -, -, -, -, -, hkept⟩ := breakInstruction_spec b s
      exact ⟨t, ht, fun a ha => hkept a (fun heq => ha ⟨_, heq⟩) (fun heq => ha ⟨_, heq⟩) fun heq => ha ⟨_, heq⟩⟩
    | imp | acc | imm v | mem m | rel off => exact hnothing
  | push source =>
    obtain ⟨t, ht, -, -, -, hkept, -⟩ := pushRegister_spec source s
    exact ⟨t, ht, fun a ha => hkept a fun heq => ha ⟨_, heq⟩⟩
  | pull f => exact ⟨_, rfl, fun _ _ => rfl⟩
  | branch cond =>
    cases o with
    | rel off =>
      obtain ⟨t, ht, -, hmem, -⟩ := branch_spec cond off s
      exact ⟨t, ht, fun a _ => by rw [hmem]⟩
    | imp | pad b | acc | imm v | mem m => exact hnothing

/-- An operation that stores is a store or a read-modify-write operation, at the address its mode delivers, or a push,
in page 1. -/
theorem storesAt_compositionOf {op : Op} {o : Operand} {s : State} {a : Nat}
    (h : StoresAt (compositionOf ⟨op, o.mode⟩) o s a) :
    (op ∈ writeOps ∨ op ∈ rmwOps) ∧ (∃ m, o = .mem m ∧ a = (storeAddress m s).toNat) ∨
      op ∈ pushOps ∧ ∃ sp, a = (stackAddress sp).toNat := by
  cases op with
  | sta | stx | sty => exact .inl ⟨.inl (by decide), h⟩
  | inc | dec => exact .inl ⟨.inr (by decide), h⟩
  | asl | lsr | rol | ror =>
    cases o with
    | mem m => exact .inl ⟨.inr (by decide), by cases m <;> exact h⟩
    | acc => exact h.elim
    | imp | pad b | imm v | rel off => exact .inl ⟨.inr (by decide), h⟩
  | jsr | brk | pha | php => exact .inr ⟨by decide, h⟩
  | adc | and | bcc | bcs | beq | bit | bmi | bne | bpl | bvc | bvs | clc | cld | cli | clv | cmp | cpx | cpy | dex
  | dey | eor | inx | iny | jmp | lda | ldx | ldy | nop | ora | pla | plp | rti | rts | sbc | sec | sed | sei | tax
  | tay | tsx | txa | txs | tya => exact h.elim

/-- An instruction keeps every byte that it does not store to: it stores as a store or a read-modify-write does, or as a
push does. -/
theorem exec_mem (i : Instr) (s : State) :
    ∃ t, exec i s = .next t ∧ ∀ a,
      ((i.op ∈ writeOps ∨ i.op ∈ rmwOps) → ∀ m, i.operand = .mem m → a ≠ (storeAddress m s).toNat) →
      (i.op ∈ pushOps → ∀ sp, a ≠ (stackAddress sp).toNat) → t.mem.read a = s.mem.read a := by
  obtain ⟨t, ht, hkept⟩ := runComposition_mem (compositionOf i.entry) i.operand s
  refine ⟨t, exec_eq_runComposition i s ▸ ht, fun a hstore hpush => hkept a fun hat => ?_⟩
  obtain ⟨hop, m, ho, ha⟩ | ⟨hop, sp, ha⟩ := storesAt_compositionOf hat
  · exact hstore hop m ho ha
  · exact hpush hop sp ha

/-- Settles O51: such an instruction stores nowhere. -/
theorem onlyStoringInstructionsChangeMemory : Obligations.OnlyStoringInstructionsChangeMemory := by
  unfold Obligations.OnlyStoringInstructionsChangeMemory
  intro i s hwrite hpush hmodify
  obtain ⟨t, ht, hkept⟩ := exec_mem i s
  refine ⟨t, ht, fun a => hkept a (fun hop m ho => ?_) fun hop => absurd hop hpush⟩
  cases ho.symm.trans (hmodify (hop.resolve_left hwrite))

theorem stackAddress_toNat (sp : Byte) : (stackAddress sp).toNat = 256 + sp.toNat := cat_toNat 0x01 sp

theorem pushOps_disjoint : ∀ op ∈ pushOps, op ∉ writeOps ∧ op ∉ rmwOps := by decide

/-- Settles O52: a push stores at stack addresses alone, which are those from 0x0100 to 0x01FF. -/
theorem pushesStayInPageOne : Obligations.PushesStayInPageOne := by
  unfold Obligations.PushesStayInPageOne
  intro i s hop
  obtain ⟨t, ht, hkept⟩ := exec_mem i s
  obtain ⟨hwrite, hmodify⟩ := pushOps_disjoint i.op hop
  refine ⟨t, ht, fun a ha => hkept a (fun h => (h.elim hwrite hmodify).elim) fun _ sp => ?_⟩
  have hsp := sp.isLt
  rw [stackAddress_toNat]
  omega

/-- The modes whose address is a zero-extended byte (41_addressing.md R162 to R164). -/
def zeroPageModes : List Mode := [.zp, .zpx, .zpy]

theorem storeAddress_toNat_lt {m : MemOperand} (h : m.mode ∈ zeroPageModes) (s : State) :
    (storeAddress m s).toNat < 256 := by
  have hzext : ∀ b : Byte, (zext16 b).toNat < 256 := fun b => by
    rw [zext16_eq_cat, cat_toNat]
    simpa using b.isLt
  cases m with
  | zp z | zpx z | zpy z => exact hzext _
  | abs a | abx a | aby a | izx p | izy p | ind a => exact absurd h (by simp [zeroPageModes, MemOperand.mode])

theorem pushOps_modes : ∀ op ∈ pushOps, ∀ mode ∈ op.modes, mode ∉ zeroPageModes := by decide

theorem mode_mem_modes (i : Instr) : i.operand.mode ∈ i.op.modes := of_decide_eq_true (entry_wellFormed i)

/-- Settles O53: the address stored to is a zero-extended byte, and no push has a zero-page mode. -/
theorem zeroPageStoresStayInPageZero : Obligations.ZeroPageStoresStayInPageZero := by
  unfold Obligations.ZeroPageStoresStayInPageZero
  intro i s hmode
  have hzero : i.operand.mode ∈ zeroPageModes := by simpa [zeroPageModes] using hmode
  obtain ⟨t, ht, hkept⟩ := exec_mem i s
  refine ⟨t, ht, fun a ha => hkept a (fun _ m ho => ?_) fun hop => ?_⟩
  · have hlt : (storeAddress m s).toNat < 256 := storeAddress_toNat_lt (by rwa [ho] at hzero) s
    omega
  · exact absurd hzero (pushOps_modes _ hop _ (mode_mem_modes i))

/-- Settles O54: a bus write stores its byte and leaves every other one. -/
theorem busReadAfterWrite : Obligations.BusReadAfterWrite := by
  unfold Obligations.BusReadAfterWrite
  intro s a b v hwf ha hb
  have hplain : (s.busWrite a v).hostAnswers b = false := by
    rw [State.busWrite_eq, State.hostAnswers_congr (State.perform_hostRegions _ _), hb]
  simp only [State.busRead_fst, State.answer, hplain, hb, Bool.false_eq_true, if_false]
  split
  next hab => rw [hab]; exact State.perform_write_read_same hwf ha v
  next hab => exact State.perform_write_read_ne s (mt BitVec.eq_of_toNat_eq hab) v

end Sys2Proof
end

section
/-! The machines the Compiler builds (42_compiler.md R191 to R196): at every cycle of its table a machine has a
pending Step, and it goes on to the next cycle of its table or is Done. -/

namespace Sys2Proof

open Sys2Proof.Machine Sys2Proof.Claims

/-! ### The modes of each composition, and the cycles of each mode -/

/-- The addressing modes of the entries a composition is built for (30_encoding.md R74, R75). -/
def compositionModes : Composition → List Mode
  | .read _ => [.imm, .zp, .zpx, .zpy, .abs, .abx, .aby, .izx, .izy]
  | .write _ => [.zp, .zpx, .zpy, .abs, .abx, .aby, .izx, .izy]
  | .rmw _ => [.zp, .zpx, .abs, .abx]
  | .implied _ => [.imp, .acc]
  | .jump => [.abs, .ind]
  | .jsr => [.abs]
  | .rts | .rti | .brk | .push _ | .pull _ => [.imp]
  | .branch _ => [.rel]

theorem modes_subset_compositionModes (op : Op) :
    ∀ mode ∈ op.modes, mode ∈ compositionModes (compositionOf ⟨op, mode⟩) := by
  cases op <;> decide

theorem mode_mem_compositionModes {e : Entry} (h : e.wellFormed = true) : e.mode ∈ compositionModes (compositionOf e) :=
  modes_subset_compositionModes e.op e.mode (of_decide_eq_true h)

/-- The Steps of a mode, its extra cycle included (R160 to R170). -/
def mostModeCycles : Mode → Nat
  | .imp | .acc | .rel => 0
  | .imm | .zp => 1
  | .zpx | .zpy | .abs => 2
  | .abx | .aby => 3
  | .izx | .izy | .ind => 4

theorem modeCycles_le (m : StateMachine) : m.modeCycles ≤ mostModeCycles m.entry.mode := by
  obtain ⟨⟨op, mode⟩, t, wl, l⟩ := m
  cases mode with
  | imp | acc | rel | imm | zp | zpx | zpy | abs | izx | ind => exact Nat.le_refl _
  | abx | aby | izy =>
    simp only [StateMachine.modeCycles, mostModeCycles]
    split <;> decide

/-- The Steps of a mode, without its extra cycle. -/
def leastModeCycles : Mode → Nat
  | .imp | .acc | .rel => 0
  | .imm | .zp => 1
  | .zpx | .zpy | .abs | .abx | .aby => 2
  | .izy => 3
  | .izx | .ind => 4

theorem le_modeCycles (m : StateMachine) : leastModeCycles m.entry.mode ≤ m.modeCycles := by
  obtain ⟨⟨op, mode⟩, t, wl, l⟩ := m
  cases mode with
  | imp | acc | rel | imm | zp | zpx | zpy | abs | izx | ind => exact Nat.le_refl _
  | abx | aby | izy =>
    simp only [StateMachine.modeCycles, leastModeCycles]
    split <;> decide

theorem lt_modeCycles {m : StateMachine} {n : Nat} (h : n.blt (leastModeCycles m.entry.mode) = true) :
    n < m.modeCycles :=
  Nat.lt_of_lt_of_le (Nat.le_of_ble_eq_true h) (le_modeCycles m)

/-- No machine has more than 6 Steps (R196). -/
theorem lastCycle_le {m : StateMachine} (h : m.entry.wellFormed = true) : m.lastCycle ≤ maxSteps := by
  have hmodes := mode_mem_compositionModes h
  have hle := modeCycles_le m
  have hmost : ∀ mode, mostModeCycles mode ≤ 4 := fun mode => by cases mode <;> decide
  have hmost4 := hmost m.entry.mode
  unfold StateMachine.lastCycle maxSteps
  generalize compositionOf m.entry = c at *
  cases c with
  | read f =>
    dsimp only
    split <;> omega
  | rmw f =>
    have hmodify : ∀ mode ∈ compositionModes (.rmw f), mostModeCycles mode ≤ 3 := by
      intro mode hmode
      simp only [compositionModes, List.mem_cons, List.not_mem_nil, or_false] at hmode
      obtain rfl | rfl | rfl | rfl := hmode <;> decide
    have := hmodify _ hmodes
    dsimp only
    omega
  | write source => dsimp only; omega
  | jump => dsimp only; omega
  | branch cond => dsimp only; split <;> decide
  | implied f | jsr | rts | rti | brk | push source | pull f => exact Nat.le_of_ble_eq_true rfl

/-! ### The continuations of a machine -/

/-- What a Step of the machine `m` of the composition `c` can answer: Done, or the machine at its next cycle with some
latches changed, within its table; and the registers as `c` respects them. -/
inductive Continues (c : Composition) (m : StateMachine) (r : RegFile) : After → Prop where
  | done (r' : RegFile) (hregs : ∀ R, IgnoresPc R → Respects R c → R r r') : Continues c m r (r', none)
  | proceed (f : Latches → Latches) (r' : RegFile) (hlast : m.t < (m.latch f).lastCycle)
      (hregs : ∀ R, IgnoresPc R → Respects R c → R r r') : Continues c m r ((m.latch f).proceed r')

/-- The Step is one the machine can have: its first reads at PC (R193), and its continuation is one of `Continues`. -/
def LegalStep (c : Composition) (m : StateMachine) (r : RegFile) (st : BusStep) : Prop :=
  (m.t = 1 → st.access = .read r.pc) ∧ ∀ d, Continues c m r (st.run d)

/-- An indexed mode computes its address one cycle before its extra cycle: it goes on with that cycle, or delivers. -/
theorem indexed_spec (deliver : StateMachine → RegFile → After) (m : StateMachine) (f : Latches → Latches) (r : RegFile)
    (h : (m.latch f).modeCycles = if (m.latch f).takesIndexCycle then m.t + 1 else m.t) :
    (m.t < (m.latch f).modeCycles ∧ (m.latch f).indexed r deliver = (m.latch f).proceed r) ∨
      (m.t = (m.latch f).modeCycles ∧ (m.latch f).indexed r deliver = deliver (m.latch f) r) := by
  rw [h]
  unfold StateMachine.indexed
  split
  next => exact .inl ⟨Nat.lt_succ_self _, rfl⟩
  next => exact .inr ⟨rfl, rfl⟩

/-- The latches with the base address complete, its high byte answered, and the index added (R166, R167, R169). -/
def baseLatches (d index : Byte) (l : Latches) : Latches :=
  { l with adh := d, base := cat d l.adl, ea := cat d l.adl + zext16 index }

/-- A cycle of an addressing mode is a read, the first at PC; it leaves the registers but for PC, and goes on in the
mode or, from its last cycle, with the consumer (R160 to R170). -/
theorem modeStep_spec (deliver : StateMachine → RegFile → After) {m : StateMachine} (r : RegFile)
    (hmode : m.entry.mode ≠ .imm) (hpos : 1 ≤ m.t) (ht : m.t ≤ m.modeCycles) :
    ∃ a k, modeStep deliver m r = some (.read a k) ∧ (m.t = 1 → a = r.pc) ∧
      ∀ d, ∃ (f : Latches → Latches) (v : Word),
        (m.t < (m.latch f).modeCycles ∧ k d = (m.latch f).proceed (r.setPc v)) ∨
        (m.t = (m.latch f).modeCycles ∧ k d = deliver (m.latch f) (r.setPc v)) := by
  have hle := modeCycles_le m
  obtain ⟨⟨op, mode⟩, t, wl, l⟩ := m
  cases mode with
  | imp | acc | rel => exact absurd (hpos.trans (ht.trans hle)) (Nat.not_succ_le_zero 0)
  | imm => exact absurd rfl hmode
  | zp =>
    obtain rfl : t = 1 := Nat.le_antisymm ht hpos
    exact ⟨_, _, rfl, fun _ => rfl, fun d => ⟨_, _, .inr ⟨rfl, rfl⟩⟩⟩
  | zpx | zpy =>
    obtain rfl | rfl : t = 1 ∨ t = 2 := by simp [StateMachine.modeCycles] at hpos ht; omega
    · exact ⟨_, _, rfl, fun _ => rfl, fun d => ⟨_, _, .inl ⟨lt_modeCycles rfl, rfl⟩⟩⟩
    · exact ⟨_, _, rfl, nofun, fun d => ⟨_, r.pc, .inr ⟨rfl, rfl⟩⟩⟩
  | abs =>
    obtain rfl | rfl : t = 1 ∨ t = 2 := by simp [StateMachine.modeCycles] at hpos ht; omega
    · exact ⟨_, _, rfl, fun _ => rfl, fun d => ⟨_, _, .inl ⟨lt_modeCycles rfl, rfl⟩⟩⟩
    · exact ⟨_, _, rfl, nofun, fun d => ⟨_, _, .inr ⟨rfl, rfl⟩⟩⟩
  | abx =>
    obtain rfl | rfl | rfl : t = 1 ∨ t = 2 ∨ t = 3 := by simp [mostModeCycles] at hpos ht hle; omega
    · exact ⟨_, _, rfl, fun _ => rfl, fun d => ⟨_, _, .inl ⟨lt_modeCycles rfl, rfl⟩⟩⟩
    · exact ⟨_, _, rfl, nofun, fun d => ⟨baseLatches d r.x, r.pc + 1, indexed_spec deliver _ _ r.incPc rfl⟩⟩
    · exact ⟨_, _, rfl, nofun, fun d => ⟨id, r.pc, .inr ⟨Nat.le_antisymm ht hle, rfl⟩⟩⟩
  | aby =>
    obtain rfl | rfl | rfl : t = 1 ∨ t = 2 ∨ t = 3 := by simp [mostModeCycles] at hpos ht hle; omega
    · exact ⟨_, _, rfl, fun _ => rfl, fun d => ⟨_, _, .inl ⟨lt_modeCycles rfl, rfl⟩⟩⟩
    · exact ⟨_, _, rfl, nofun, fun d => ⟨baseLatches d r.y, r.pc + 1, indexed_spec deliver _ _ r.incPc rfl⟩⟩
    · exact ⟨_, _, rfl, nofun, fun d => ⟨id, r.pc, .inr ⟨Nat.le_antisymm ht hle, rfl⟩⟩⟩
  | izx =>
    obtain rfl | rfl | rfl | rfl : t = 1 ∨ t = 2 ∨ t = 3 ∨ t = 4 := by
      simp [StateMachine.modeCycles] at hpos ht; omega
    · exact ⟨_, _, rfl, fun _ => rfl, fun d => ⟨_, _, .inl ⟨lt_modeCycles rfl, rfl⟩⟩⟩
    · exact ⟨_, _, rfl, nofun, fun d => ⟨_, r.pc, .inl ⟨lt_modeCycles rfl, rfl⟩⟩⟩
    · exact ⟨_, _, rfl, nofun, fun d => ⟨_, r.pc, .inl ⟨lt_modeCycles rfl, rfl⟩⟩⟩
    · exact ⟨_, _, rfl, nofun, fun d => ⟨_, r.pc, .inr ⟨rfl, rfl⟩⟩⟩
  | izy =>
    obtain rfl | rfl | rfl | rfl : t = 1 ∨ t = 2 ∨ t = 3 ∨ t = 4 := by
      simp [mostModeCycles] at hpos ht hle; omega
    · exact ⟨_, _, rfl, fun _ => rfl, fun d => ⟨_, _, .inl ⟨lt_modeCycles rfl, rfl⟩⟩⟩
    · exact ⟨_, _, rfl, nofun, fun d => ⟨_, r.pc, .inl ⟨lt_modeCycles rfl, rfl⟩⟩⟩
    · exact ⟨_, _, rfl, nofun, fun d => ⟨baseLatches d r.y, r.pc, indexed_spec deliver _ _ r rfl⟩⟩
    · exact ⟨_, _, rfl, nofun, fun d => ⟨id, r.pc, .inr ⟨Nat.le_antisymm ht hle, rfl⟩⟩⟩
  | ind =>
    obtain rfl | rfl | rfl | rfl : t = 1 ∨ t = 2 ∨ t = 3 ∨ t = 4 := by
      simp [StateMachine.modeCycles] at hpos ht; omega
    · exact ⟨_, _, rfl, fun _ => rfl, fun d => ⟨_, _, .inl ⟨lt_modeCycles rfl, rfl⟩⟩⟩
    · exact ⟨_, _, rfl, nofun, fun d => ⟨_, _, .inl ⟨lt_modeCycles rfl, rfl⟩⟩⟩
    · exact ⟨_, _, rfl, nofun, fun d => ⟨_, r.pc, .inl ⟨lt_modeCycles rfl, rfl⟩⟩⟩
    · exact ⟨_, _, rfl, nofun, fun d => ⟨_, r.pc, .inr ⟨rfl, rfl⟩⟩⟩

theorem stateMachine_ok_iff {m : StateMachine} :
    m.ok = true ↔ m.entry.wellFormed = true ∧ 1 ≤ m.t ∧ m.t ≤ m.lastCycle ∧
      m.writeLike = (compositionOf m.entry).writeLike := by
  simp [StateMachine.ok, and_assoc]

/-- A continuation of a machine that stands in its table is Done or stands in the table at the next cycle. -/
theorem ok_of_continues {c : Composition} {m m' : StateMachine} {r r' : RegFile} (hok : m.ok = true)
    (h : Continues c m r (r', some m')) : m'.ok = true ∧ m'.t = m.t + 1 ∧ m'.entry = m.entry := by
  obtain ⟨hwf, hpos, -, hwl⟩ := stateMachine_ok_iff.mp hok
  cases h with
  | proceed f r' hlast hregs => exact ⟨stateMachine_ok_iff.mpr ⟨hwf, Nat.le_add_left 1 m.t, hlast, hwl⟩, rfl, rfl⟩

theorem regs_of_continues {c : Composition} {m : StateMachine} {r : RegFile} {k : After} (h : Continues c m r k)
    {R : RegFile → RegFile → Prop} (hR : IgnoresPc R) (hc : Respects R c) : R r k.1 := by
  cases h with
  | done r' hregs => exact hregs R hR hc
  | proceed f r' hlast hregs => exact hregs R hR hc

/-! ### The Steps of a machine with an addressing mode -/

theorem leastModeCycles_pos {mode : Mode} (h : mode ∈ [.zp, .zpx, .zpy, .abs, .abx, .aby, .izx, .izy]) :
    mode ≠ .imm ∧ 0 < leastModeCycles mode := by
  revert mode
  decide

/-- The cycles of an addressing mode, then `n` of its consumer (R160, R191). -/
theorem addressedStep_spec {c : Composition} {m : StateMachine} {r : RegFile} {n : Nat}
    {consumer : Nat → StateMachine → RegFile → Option BusStep}
    (hmode : m.entry.mode ≠ .imm ∧ 0 < leastModeCycles m.entry.mode)
    (hlast : ∀ f, (m.latch f).lastCycle = (m.latch f).modeCycles + n) (hn : 0 < n) (hpos : 1 ≤ m.t)
    (hconsumer : ∀ k, m.t = m.modeCycles + k → 1 ≤ k → k ≤ n →
      ∃ st, consumer k m r = some st ∧ ∀ d, Continues c m r (st.run d)) (ht : m.t ≤ m.lastCycle) :
    ∃ st, addressedStep consumer m r = some st ∧ LegalStep c m r st := by
  obtain ⟨himm, hleast⟩ := hmode
  unfold addressedStep
  split
  next hle =>
    obtain ⟨a, k, hstep, hfirst, hk⟩ := modeStep_spec StateMachine.proceed r himm hpos hle
    refine ⟨_, hstep, fun h => congrArg BusAccess.read (hfirst h), fun d => ?_⟩
    obtain ⟨f, v, ⟨hlt, hkd⟩ | ⟨heq, hkd⟩⟩ := hk d
    all_goals
      show Continues c m r (k d)
      rw [hkd]
      refine .proceed f _ ?_ fun R hR _ => hR.setPc v r
      rw [hlast f]
      omega
  next hgt =>
    have hlast' : m.lastCycle = m.modeCycles + n := hlast id
    have hpos' : 0 < m.modeCycles := Nat.lt_of_lt_of_le hleast (le_modeCycles m)
    obtain ⟨st, hst, hcont⟩ := hconsumer (m.t - m.modeCycles) (by omega) (by omega) (by omega)
    exact ⟨st, hst, fun h => by omega, hcont⟩

/-! ### The Steps of each machine -/

theorem lt_lastCycle {m m' : StateMachine} {n : Nat} (h : m'.lastCycle = n) (hn : m.t.blt n = true) :
    m.t < m'.lastCycle := h ▸ Nat.le_of_ble_eq_true hn

/-- In any mode but IMM a value consumer is dereferenced (R172). -/
theorem readStep_eq_addressedStep {m : StateMachine} (h : m.entry.mode ≠ .imm) (f : Byte → RegFile → RegFile)
    (r : RegFile) : readStep f m r = addressedStep (readConsumer f) m r := by
  unfold readStep
  split
  next himm _ => exact absurd himm h
  next himm _ => exact absurd himm h
  next => rfl

section
variable {m : StateMachine} (r : RegFile) (hpos : 1 ≤ m.t) (ht : m.t ≤ m.lastCycle)
include hpos ht

theorem readStep_spec {f : Byte → RegFile → RegFile} (hc : compositionOf m.entry = .read f)
    (hmode : m.entry.mode ∈ compositionModes (.read f)) :
    ∃ st, readStep f m r = some st ∧ LegalStep (.read f) m r st := by
  by_cases himm : m.entry.mode = .imm
  · have hlast : m.lastCycle = 1 := by simp [StateMachine.lastCycle, hc, himm]
    obtain ⟨⟨op, mode⟩, t, wl, l⟩ := m
    obtain rfl : t = 1 := Nat.le_antisymm (ht.trans_eq hlast) hpos
    obtain rfl : mode = .imm := himm
    exact ⟨_, rfl, fun _ => rfl, fun d => .done _ fun R hR hf => hR.trans (hR.incPc r) (hf d _)⟩
  · have hlast : ∀ g, (m.latch g).lastCycle = (m.latch g).modeCycles + 1 := fun g => by
      simp [StateMachine.lastCycle, StateMachine.latch, hc]
    rw [readStep_eq_addressedStep himm]
    refine addressedStep_spec (leastModeCycles_pos (List.mem_of_ne_of_mem himm hmode)) hlast Nat.one_pos hpos
      (fun k _ hk hk1 => ?_) ht
    obtain rfl : k = 1 := Nat.le_antisymm hk1 hk
    exact ⟨_, rfl, fun d => .done _ fun R hR hf => hf d r⟩

theorem writeStep_spec {source : RegFile → Byte} (hc : compositionOf m.entry = .write source)
    (hmode : m.entry.mode ∈ compositionModes (.write source)) :
    ∃ st, addressedStep (writeConsumer source) m r = some st ∧ LegalStep (.write source) m r st := by
  have hlast : ∀ g, (m.latch g).lastCycle = (m.latch g).modeCycles + 1 := fun g => by
    simp [StateMachine.lastCycle, StateMachine.latch, hc]
  refine addressedStep_spec (leastModeCycles_pos hmode) hlast Nat.one_pos hpos (fun k _ hk hk1 => ?_) ht
  obtain rfl : k = 1 := Nat.le_antisymm hk1 hk
  exact ⟨_, rfl, fun d => .done _ fun R hR _ => hR.refl r⟩

theorem modifyStep_spec {f : Byte → RegFile → Byte × RegFile} (hc : compositionOf m.entry = .rmw f)
    (hmode : m.entry.mode ∈ compositionModes (.rmw f)) :
    ∃ st, addressedStep (rmwConsumer f) m r = some st ∧ LegalStep (.rmw f) m r st := by
  have hlast : ∀ g, (m.latch g).lastCycle = (m.latch g).modeCycles + 3 := fun g => by
    simp [StateMachine.lastCycle, StateMachine.latch, hc]
  have hdelivers : m.entry.mode ∈ [Mode.zp, .zpx, .zpy, .abs, .abx, .aby, .izx, .izy] := by
    revert hmode
    generalize m.entry.mode = mode
    revert mode
    simp [compositionModes]
  refine addressedStep_spec (leastModeCycles_pos hdelivers) hlast (by decide) hpos (fun k htk hk hk3 => ?_) ht
  obtain rfl | rfl | rfl : k = 1 ∨ k = 2 ∨ k = 3 := by omega
  · refine ⟨_, rfl, fun d => .proceed (fun l => { l with data := d, res := (f d r).1 }) _ ?_ fun R hR hf => hf d r⟩
    have hsame : (m.latch fun l => { l with data := d, res := (f d r).1 }).modeCycles = m.modeCycles := rfl
    rw [hlast, hsame]
    omega
  · refine ⟨_, rfl, fun d => .proceed id _ ?_ fun R hR _ => hR.refl r⟩
    rw [hlast id]
    exact htk.trans_lt (Nat.lt_succ_self _)
  · exact ⟨_, rfl, fun d => .done _ fun R hR _ => hR.refl r⟩

theorem jumpStep_spec (hc : compositionOf m.entry = .jump) (hmode : m.entry.mode ∈ compositionModes .jump) :
    ∃ st, jumpStep m r = some st ∧ LegalStep .jump m r st := by
  have hlast : ∀ g, (m.latch g).lastCycle = (m.latch g).modeCycles := fun g => by
    simp [StateMachine.lastCycle, StateMachine.latch, hc]
  have hle : m.t ≤ m.modeCycles := ht.trans_eq (hlast id)
  have himm : m.entry.mode ≠ .imm := fun h => absurd (h ▸ hmode) (by decide)
  obtain ⟨a, k, hstep, hfirst, hk⟩ :=
    modeStep_spec (fun m r => (r.setPc m.latches.ea, none)) r himm hpos hle
  refine ⟨_, (if_pos hle).trans hstep, fun h => congrArg BusAccess.read (hfirst h), fun d => ?_⟩
  show Continues .jump m r (k d)
  obtain ⟨f, v, ⟨hlt, hkd⟩ | ⟨-, hkd⟩⟩ := hk d
  · rw [hkd]
    exact .proceed f _ (hlt.trans_eq (hlast f).symm) fun R hR _ => hR.setPc v r
  · rw [hkd]
    exact .done _ fun R hR _ => hR.trans (hR.setPc v r) (hR.setPc _ _)

theorem impliedStep_spec {f : RegFile → RegFile} (hc : compositionOf m.entry = .implied f) :
    ∃ st, impliedStep f m r = some st ∧ LegalStep (.implied f) m r st := by
  have hlast : m.lastCycle = 1 := by simp [StateMachine.lastCycle, hc]
  obtain ⟨e, t, wl, l⟩ := m
  obtain rfl : t = 1 := Nat.le_antisymm (ht.trans_eq hlast) hpos
  exact ⟨_, rfl, fun _ => rfl, fun d => .done _ fun R hR hf => hf r⟩

theorem jsrStep_spec (hc : compositionOf m.entry = .jsr) : ∃ st, jsrStep m r = some st ∧ LegalStep .jsr m r st := by
  have hlast : ∀ g, (m.latch g).lastCycle = 5 := fun g => by simp [StateMachine.lastCycle, StateMachine.latch, hc]
  have hle : m.t ≤ 5 := ht.trans_eq (hlast id)
  obtain ⟨e, t, wl, l⟩ := m
  obtain rfl | rfl | rfl | rfl | rfl : t = 1 ∨ t = 2 ∨ t = 3 ∨ t = 4 ∨ t = 5 := by
    dsimp only at hpos hle; omega
  · exact ⟨_, rfl, fun _ => rfl, fun d => .proceed _ _ (lt_lastCycle (hlast _) rfl) fun R hR _ => hR.incPc r⟩
  · exact ⟨_, rfl, nofun, fun d => .proceed id _ (lt_lastCycle (hlast _) rfl) fun R hR _ => hR.refl r⟩
  · exact ⟨_, rfl, nofun, fun d => .proceed id _ (lt_lastCycle (hlast _) rfl) fun R hR hs => hs _ r⟩
  · exact ⟨_, rfl, nofun, fun d => .proceed id _ (lt_lastCycle (hlast _) rfl) fun R hR hs => hs _ r⟩
  · exact ⟨_, rfl, nofun, fun d => .done _ fun R hR _ => hR.setPc _ r⟩

theorem rtsStep_spec (hc : compositionOf m.entry = .rts) : ∃ st, rtsStep m r = some st ∧ LegalStep .rts m r st := by
  have hlast : ∀ g, (m.latch g).lastCycle = 5 := fun g => by simp [StateMachine.lastCycle, StateMachine.latch, hc]
  have hle : m.t ≤ 5 := ht.trans_eq (hlast id)
  obtain ⟨e, t, wl, l⟩ := m
  obtain rfl | rfl | rfl | rfl | rfl : t = 1 ∨ t = 2 ∨ t = 3 ∨ t = 4 ∨ t = 5 := by
    dsimp only at hpos hle; omega
  · exact ⟨_, rfl, fun _ => rfl, fun d => .proceed id _ (lt_lastCycle (hlast _) rfl) fun R hR _ => hR.refl r⟩
  · exact ⟨_, rfl, nofun, fun d => .proceed id _ (lt_lastCycle (hlast _) rfl) fun R hR _ => hR.refl r⟩
  · exact ⟨_, rfl, nofun, fun d => .proceed _ _ (lt_lastCycle (hlast _) rfl) fun R hR hs => hs _ r⟩
  · exact ⟨_, rfl, nofun, fun d => .proceed _ _ (lt_lastCycle (hlast _) rfl) fun R hR hs => hs _ r⟩
  · exact ⟨_, rfl, nofun, fun d => .done _ fun R hR _ => hR.setPc _ r⟩

theorem rtiStep_spec (hc : compositionOf m.entry = .rti) : ∃ st, rtiStep m r = some st ∧ LegalStep .rti m r st := by
  have hlast : ∀ g, (m.latch g).lastCycle = 5 := fun g => by simp [StateMachine.lastCycle, StateMachine.latch, hc]
  have hle : m.t ≤ 5 := ht.trans_eq (hlast id)
  obtain ⟨e, t, wl, l⟩ := m
  obtain rfl | rfl | rfl | rfl | rfl : t = 1 ∨ t = 2 ∨ t = 3 ∨ t = 4 ∨ t = 5 := by
    dsimp only at hpos hle; omega
  · exact ⟨_, rfl, fun _ => rfl, fun d => .proceed id _ (lt_lastCycle (hlast _) rfl) fun R hR _ => hR.refl r⟩
  · exact ⟨_, rfl, nofun, fun d => .proceed id _ (lt_lastCycle (hlast _) rfl) fun R hR _ => hR.refl r⟩
  · exact ⟨_, rfl, nofun, fun d => .proceed id _ (lt_lastCycle (hlast _) rfl) fun R hR ⟨hs, hp⟩ =>
      hR.trans (hs _ r) (hp d _)⟩
  · exact ⟨_, rfl, nofun, fun d => .proceed _ _ (lt_lastCycle (hlast _) rfl) fun R hR ⟨hs, _⟩ => hs _ r⟩
  · exact ⟨_, rfl, nofun, fun d => .done _ fun R hR ⟨hs, _⟩ => hR.trans (hs _ r) (hR.setPc _ _)⟩

theorem brkStep_spec (hc : compositionOf m.entry = .brk) : ∃ st, brkStep m r = some st ∧ LegalStep .brk m r st := by
  have hlast : ∀ g, (m.latch g).lastCycle = 6 := fun g => by simp [StateMachine.lastCycle, StateMachine.latch, hc]
  have hle : m.t ≤ 6 := ht.trans_eq (hlast id)
  obtain ⟨e, t, wl, l⟩ := m
  obtain rfl | rfl | rfl | rfl | rfl | rfl : t = 1 ∨ t = 2 ∨ t = 3 ∨ t = 4 ∨ t = 5 ∨ t = 6 := by
    dsimp only at hpos hle; omega
  · exact ⟨_, rfl, fun _ => rfl, fun d => .proceed id _ (lt_lastCycle (hlast _) rfl) fun R hR _ => hR.incPc r⟩
  · exact ⟨_, rfl, nofun, fun d => .proceed id _ (lt_lastCycle (hlast _) rfl) fun R hR ⟨hs, _⟩ => hs _ r⟩
  · exact ⟨_, rfl, nofun, fun d => .proceed id _ (lt_lastCycle (hlast _) rfl) fun R hR ⟨hs, _⟩ => hs _ r⟩
  · exact ⟨_, rfl, nofun, fun d => .proceed id _ (lt_lastCycle (hlast _) rfl) fun R hR ⟨hs, hi⟩ =>
      hR.trans (hs _ r) (hi _)⟩
  · exact ⟨_, rfl, nofun, fun d => .proceed _ _ (lt_lastCycle (hlast _) rfl) fun R hR _ => hR.refl r⟩
  · exact ⟨_, rfl, nofun, fun d => .done _ fun R hR _ => hR.setPc _ r⟩

theorem pushStep_spec {source : RegFile → Byte} (hc : compositionOf m.entry = .push source) :
    ∃ st, pushStep source m r = some st ∧ LegalStep (.push source) m r st := by
  have hlast : ∀ g, (m.latch g).lastCycle = 2 := fun g => by simp [StateMachine.lastCycle, StateMachine.latch, hc]
  have hle : m.t ≤ 2 := ht.trans_eq (hlast id)
  obtain ⟨e, t, wl, l⟩ := m
  obtain rfl | rfl : t = 1 ∨ t = 2 := by dsimp only at hpos hle; omega
  · exact ⟨_, rfl, fun _ => rfl, fun d => .proceed id _ (lt_lastCycle (hlast _) rfl) fun R hR _ => hR.refl r⟩
  · exact ⟨_, rfl, nofun, fun d => .done _ fun R hR hs => hs _ r⟩

theorem pullStep_spec {f : Byte → RegFile → RegFile} (hc : compositionOf m.entry = .pull f) :
    ∃ st, pullStep f m r = some st ∧ LegalStep (.pull f) m r st := by
  have hlast : ∀ g, (m.latch g).lastCycle = 3 := fun g => by simp [StateMachine.lastCycle, StateMachine.latch, hc]
  have hle : m.t ≤ 3 := ht.trans_eq (hlast id)
  obtain ⟨e, t, wl, l⟩ := m
  obtain rfl | rfl | rfl : t = 1 ∨ t = 2 ∨ t = 3 := by dsimp only at hpos hle; omega
  · exact ⟨_, rfl, fun _ => rfl, fun d => .proceed id _ (lt_lastCycle (hlast _) rfl) fun R hR _ => hR.refl r⟩
  · exact ⟨_, rfl, nofun, fun d => .proceed id _ (lt_lastCycle (hlast _) rfl) fun R hR _ => hR.refl r⟩
  · exact ⟨_, rfl, nofun, fun d => .done _ fun R hR ⟨hs, hf⟩ => hR.trans (hs _ r) (hf d _)⟩

theorem branchStep_spec {cond : RegFile → Bool} (hc : compositionOf m.entry = .branch cond) :
    ∃ st, branchStep cond m r = some st ∧ LegalStep (.branch cond) m r st := by
  have hlast : ∀ g, (m.latch g).lastCycle =
      if crossed (m.latch g).latches.base (m.latch g).latches.ea then 3 else 2 := fun g => by
    simp [StateMachine.lastCycle, StateMachine.latch, hc]
  have hlt : ∀ g, 1 < (m.latch g).lastCycle := fun g => by rw [hlast]; split <;> decide
  have hle : m.t ≤ 3 := ht.trans (by rw [show m.lastCycle = _ from hlast id]; split <;> decide)
  obtain ⟨e, t, wl, l⟩ := m
  obtain rfl | rfl | rfl : t = 1 ∨ t = 2 ∨ t = 3 := by dsimp only at hpos hle; omega
  · refine ⟨_, rfl, fun _ => rfl, fun d => ?_⟩
    dsimp only [BusStep.run]
    split
    next => exact .proceed _ _ (hlt _) fun R hR _ => hR.incPc r
    next => exact .done _ fun R hR _ => hR.incPc r
  · refine ⟨_, rfl, nofun, fun d => ?_⟩
    dsimp only [BusStep.run]
    split
    next hcross =>
      refine .proceed id _ (lt_lastCycle (n := 3) ?_ rfl) fun R hR _ => hR.setPc _ r
      rw [hlast id]
      exact if_pos hcross
    next => exact .done _ fun R hR _ => hR.setPc _ r
  · exact ⟨_, rfl, nofun, fun d => .done _ fun R hR _ => hR.refl r⟩

end

/-- At every cycle of its table a machine has a pending Step, and its continuations are the ones of `Continues`. -/
theorem pendingStep_spec {m : StateMachine} (hok : m.ok = true) (r : RegFile) :
    ∃ st, pendingStep m r = some st ∧ LegalStep (compositionOf m.entry) m r st := by
  obtain ⟨hwf, hpos, ht, -⟩ := stateMachine_ok_iff.mp hok
  have hmode := mode_mem_compositionModes hwf
  unfold pendingStep
  cases hc : compositionOf m.entry with
  | read f => exact readStep_spec r hpos ht hc (hc ▸ hmode)
  | write source => exact writeStep_spec r hpos ht hc (hc ▸ hmode)
  | rmw f => exact modifyStep_spec r hpos ht hc (hc ▸ hmode)
  | implied f => exact impliedStep_spec r hpos ht hc
  | jump => exact jumpStep_spec r hpos ht hc (hc ▸ hmode)
  | jsr => exact jsrStep_spec r hpos ht hc
  | rts => exact rtsStep_spec r hpos ht hc
  | rti => exact rtiStep_spec r hpos ht hc
  | brk => exact brkStep_spec r hpos ht hc
  | push source => exact pushStep_spec r hpos ht hc
  | pull f => exact pullStep_spec r hpos ht hc
  | branch cond => exact branchStep_spec r hpos ht hc

end Sys2Proof
end

section
/-! The arbiter's cycle (45_arbiter.md R240 to R249): the request it makes, what it leaves unchanged, and what its
phase can become. -/

namespace Sys2Proof

open Sys2Proof.Machine Sys2Proof.Claims

/-! ### The bus side of a cycle -/

/-- The end of a cycle changes the registers and the phase alone. -/
theorem advance_keeps {d : Byte} {s t : State} (h : advance d s = .next t) :
    t.mem = s.mem ∧ t.history = s.history ∧ t.hostRegions = s.hostRegions := by
  unfold advance at h
  split at h
  next =>
    dsimp only at h
    split at h <;> cases h <;> exact ⟨rfl, rfl, rfl⟩
  next =>
    split at h <;> cases h
    exact ⟨rfl, rfl, rfl⟩
  next =>
    cases h
    exact ⟨rfl, rfl, rfl⟩

/-- A cycle with a request performs it. -/
theorem cycle_of_request {s t : State} {acc : BusAccess} (hr : request s = some acc) (h : cycle s = .next t) :
    t.mem = (s.perform acc).mem ∧ t.history = acc :: s.history ∧ t.hostRegions = s.hostRegions := by
  rw [cycle, hr] at h
  simpa using advance_keeps h

theorem cycle_of_no_request {s t : State} (hr : request s = none) (h : cycle s = .next t) :
    t.mem = s.mem ∧ t.history = s.history ∧ t.hostRegions = s.hostRegions := by
  rw [cycle, hr] at h
  exact advance_keeps h

/-- Settles O16: a cycle performs its request, if it makes one, and its end changes neither memory nor the history. -/
theorem oneRequestPerCycle : Obligations.OneRequestPerCycle := by
  unfold Obligations.OneRequestPerCycle
  intro s t h
  cases hr : request s with
  | none =>
    obtain ⟨hmem, hhist, hhost⟩ := cycle_of_no_request hr h
    exact ⟨hhist, hhost, fun a _ => by rw [hmem], nofun⟩
  | some acc =>
    obtain ⟨hmem, hhist, hhost⟩ := cycle_of_request hr h
    refine ⟨hhist, hhost, fun a ha => ?_, fun w v hw => ?_⟩
    · rw [hmem, State.perform_mem_read_ne acc s a fun w v hw => (ha w v (congrArg some hw)).symm]
    · cases hw
      exact fun hwf hplain => hmem ▸ State.perform_write_read_same hwf hplain v

/-! ### The phases -/

/-- In phase Exec the cycle performs the pending Step and runs its continuation (R242). -/
theorem cycle_of_exec {s : State} {m : StateMachine} {st : BusStep} (hs : s.phase = .exec m)
    (hst : pendingStep m s.regs = some st) :
    cycle s = .next (settle (st.run (answerTo st.access s)) (s.perform st.access)) := by
  have hreq : request s = some st.access := by simp [request, hs, hst]
  simp [cycle, hreq, advance, hs, hst]

theorem request_of_exec {s : State} {m : StateMachine} (hs : s.phase = .exec m) :
    request s = (pendingStep m s.regs).map BusStep.access := by
  simp [request, hs]

/-- Settles O17: in phase Exec both the request and the end of the cycle are those of the pending Step, which is
computed from the machine and the registers. -/
theorem execCycleDependsOnRegistersAndAnswer : Obligations.ExecCycleDependsOnRegistersAndAnswer := by
  unfold Obligations.ExecCycleDependsOnRegistersAndAnswer
  rintro s s' d ⟨m, hs⟩ hphase hregs
  have hs' : s'.phase = .exec m := hphase.trans hs
  refine ⟨by rw [request_of_exec hs', request_of_exec hs, hregs], fun t ht => ?_⟩
  simp only [advance, hs, hs', hregs] at ht ⊢
  split at ht
  next => cases ht
  next st _ =>
    cases ht
    exact ⟨_, rfl, rfl, rfl, rfl, rfl⟩

theorem cycle_of_halted {s : State} {op : Byte} (hs : s.phase = .halted op) : cycle s = .next s := by
  simp [cycle, request, advance, hs]

/-- Settles O10: each of request, advance and step has its equation in phase Halted; a hard reset sets the phase. -/
theorem haltedStaysHalted : Obligations.HaltedStaysHalted := by
  unfold Obligations.HaltedStaysHalted
  intro s op hs
  exact ⟨by simp [request, hs], fun d => by simp [advance, hs], cycle_of_halted hs, by simp [step, hs],
    by simp [illegalOp, hs], fun w => rfl⟩

/-- Where the fetched byte has an entry, the fetch enters phase Exec with the fresh machine of it (R194, R241). -/
theorem advance_of_entryOf_eq_some {op : Byte} {e : Entry} (h : entryOf op = some e) {s : State}
    (hs : s.phase = .fetch) :
    advance op s =
      .next ((s.mapRegs RegFile.incPc).setPhase (.exec (.fresh e (Config.freshLatches s.history.length)))) := by
  simp [advance, hs, compile_eq_some_of_entryOf_eq_some h]

/-- Settles O14: the end of the fetch cycle by whether the byte has an entry. -/
theorem fetchCycleCompilesTheOpcode : Obligations.FetchCycleCompilesTheOpcode := by
  unfold Obligations.FetchCycleCompilesTheOpcode
  intro s op hs
  refine ⟨by simp [request, hs], by simp [fetchOutput, hs], ?_⟩
  cases he : entryOf op with
  | none => exact ⟨_, advance_of_entryOf_eq_none he hs, rfl, rfl, rfl, rfl, nofun, fun _ => rfl⟩
  | some e =>
    refine ⟨_, advance_of_entryOf_eq_some he hs, rfl, rfl, rfl, rfl, fun e' he' => ?_, nofun⟩
    cases he'
    exact ⟨_, rfl, rfl, rfl⟩

/-- The machine the fetch of an opcode with the entry `e` builds. -/
def fetchedMachine (e : Entry) (s : State) : StateMachine := .fresh e (Config.freshLatches (s.history.length + 1))

theorem cycle_of_entryOf_eq_some {s : State} (hs : s.phase = .fetch) {e : Entry}
    (he : entryOf (s.answer s.regs.pc) = some e) :
    cycle s = .next (s.opcodeFetch.setPhase (.exec (fetchedMachine e s))) := by
  rw [cycle_of_fetch hs]
  exact advance_of_entryOf_eq_some (s := s.perform (.fetch s.regs.pc)) he hs

theorem lastCycle_pos {m : StateMachine} (h : m.entry.wellFormed = true) : 1 ≤ m.lastCycle := by
  have hmode := mode_mem_compositionModes h
  unfold StateMachine.lastCycle
  generalize compositionOf m.entry = c at *
  cases c with
  | read f => dsimp only; split <;> exact Nat.le_add_left _ _
  | write source | rmw f => exact Nat.le_add_left _ _
  | jump =>
    have hpos : ∀ mode ∈ compositionModes .jump, 0 < leastModeCycles mode := by decide
    exact Nat.lt_of_lt_of_le (hpos _ hmode) (le_modeCycles m)
  | branch cond => dsimp only; split <;> decide
  | implied f | jsr | rts | rti | brk | push source | pull f => exact Nat.le_of_ble_eq_true rfl

theorem fetchedMachine_ok {s : State} {op : Byte} {e : Entry} (he : entryOf op = some e) :
    (fetchedMachine e s).ok = true := by
  have hwf := entryOf_wellFormed he
  exact stateMachine_ok_iff.mpr ⟨hwf, Nat.le_refl 1, lastCycle_pos hwf, rfl⟩

/-- Settles O15: a machine at its first cycle, which the fetched one is, has a read at PC pending. -/
theorem firstStepReadsPc : Obligations.FirstStepReadsPc := by
  unfold Obligations.FirstStepReadsPc
  rintro s t hs ht ⟨m, hm⟩
  cases he : entryOf (s.answer s.regs.pc) with
  | none =>
    cases ht.symm.trans (cycle_eq_takeIllegalOpcode hs he)
    cases hm
  | some e =>
    cases ht.symm.trans (cycle_of_entryOf_eq_some hs he)
    obtain ⟨st, hst, hfirst, -⟩ := pendingStep_spec (fetchedMachine_ok (s := s) he) s.opcodeFetch.regs
    refine ⟨rfl, ?_⟩
    rw [request_of_exec rfl, State.setPhase_regs, hst, Option.map_some, hfirst rfl]

/-- A cycle of a machine that stands in its table makes one request, and goes on in the table or to phase Fetch. -/
theorem cycle_of_ok {s : State} {m : StateMachine} (hs : s.phase = .exec m) (hok : m.ok = true) :
    ∃ t acc, cycle s = .next t ∧ request s = some acc ∧ UnusedBitKept s.regs t.regs ∧
      (t.phase = .fetch ∨ ∃ m', t.phase = .exec m' ∧ m'.ok = true ∧ m'.t = m.t + 1) := by
  obtain ⟨st, hst, -, hcont⟩ := pendingStep_spec hok s.regs
  have hk := hcont (answerTo st.access s)
  refine ⟨_, st.access, cycle_of_exec hs hst, by rw [request_of_exec hs, hst]; rfl,
    regs_of_continues hk ignoresPc_unusedBitKept (respects_unusedBitKept m.entry), ?_⟩
  generalize st.run (answerTo st.access s) = k at hk
  obtain ⟨r', _ | m'⟩ := k
  · exact .inl rfl
  · obtain ⟨hok', ht', -⟩ := ok_of_continues hok hk
    exact .inr ⟨m', rfl, hok', ht'⟩

/-! ### Well-formed states -/

theorem wellFormed_iff {s : State} :
    s.wellFormed = true ↔ s.mem.wf = true ∧ s.regs.p.getLsbD 5 = true ∧ s.phase.ok = true := by
  simp [State.wellFormed, and_assoc]

theorem unusedBit_of_kept {r r' : RegFile} (h : UnusedBitKept r r') (hr : r.p.getLsbD 5 = true) :
    r'.p.getLsbD 5 = true := by
  obtain heq | hset := h
  · rwa [heq]
  · exact hset

/-- Settles O56: a request keeps memory canonical; each phase is left for a legal one, with bit 5 of P kept. -/
theorem cycleKeepsWellFormed : Obligations.CycleKeepsWellFormed := by
  unfold Obligations.CycleKeepsWellFormed
  intro s t hwf ht
  obtain ⟨hmem, hbit, hphase⟩ := wellFormed_iff.mp hwf
  rw [wellFormed_iff]
  cases hs : s.phase with
  | fetch =>
    cases he : entryOf (s.answer s.regs.pc) with
    | none =>
      cases ht.symm.trans (cycle_eq_takeIllegalOpcode hs he)
      exact ⟨hmem, hbit, by simpa [State.takeIllegalOpcode, Phase.ok] using he⟩
    | some e =>
      cases ht.symm.trans (cycle_of_entryOf_eq_some hs he)
      exact ⟨hmem, hbit, fetchedMachine_ok he⟩
  | exec m =>
    have hok : m.ok = true := by rwa [hs] at hphase
    obtain ⟨u, acc, hu, hreq, hregs, hnext⟩ := cycle_of_ok hs hok
    cases ht.symm.trans hu
    obtain ⟨hmem', -, -⟩ := cycle_of_request hreq ht
    refine ⟨hmem' ▸ State.perform_mem_wf acc s hmem, unusedBit_of_kept hregs hbit, ?_⟩
    obtain hfetch | ⟨m', hexec, hok', -⟩ := hnext
    · rw [hfetch]; rfl
    · rw [hexec]; exact hok'
  | halted op =>
    cases ht.symm.trans (cycle_of_halted hs)
    exact ⟨hmem, hbit, hphase⟩

theorem hostWrite_apply_unusedBitKept (w : HostWrite) (r : RegFile) : UnusedBitKept r (w.apply r) := by
  cases hp : w.p with
  | none => exact .inl (hostWrite_apply_p_of_none hp r)
  | some v => exact .inr (by rw [hostWrite_apply_p_of_some hp]; simp)

theorem powerUp_wellFormed (r : RegFile) {mem : Memory} (g : List Region) (h : mem.wf = true) :
    (powerUp r mem g).wellFormed = true :=
  wellFormed_iff.mpr ⟨h, RegFile.writeP_bit5 _ _, rfl⟩

/-- A host's register write keeps a well-formed state well-formed in any legal phase. -/
theorem hostApply_wellFormed {s : State} (h : s.wellFormed = true) (w : HostWrite) {ph : Phase} (hph : ph.ok = true) :
    ((s.mapRegs w.apply).setPhase ph).wellFormed = true := by
  obtain ⟨hmem, hbit, -⟩ := wellFormed_iff.mp h
  exact wellFormed_iff.mpr ⟨hmem, unusedBit_of_kept (hostWrite_apply_unusedBitKept w s.regs) hbit, hph⟩

theorem hostWrite_of_fetch {s : State} (hs : s.phase = .fetch) (w : HostWrite) :
    hostWrite w s = .next (s.mapRegs w.apply) := by
  simp only [hostWrite, hs]

theorem hostWrite_of_ne_fetch {s : State} (hs : s.phase ≠ .fetch) (w : HostWrite) :
    hostWrite w s = .refused .hostWriteOutsideFetch := by
  unfold hostWrite
  split
  next h => exact absurd h hs
  next => rfl
  next => rfl

/-- Settles O18: a taken write changes the registers alone, each by the value the host gives it. -/
theorem hostWritesRegistersInFetchOnly : Obligations.HostWritesRegistersInFetchOnly := by
  unfold Obligations.HostWritesRegistersInFetchOnly
  intro w s
  have hregs := hostWrite_apply_eq w s.regs
  refine ⟨fun hs => ⟨_, hostWrite_of_fetch hs w, hs, rfl, rfl, rfl, ?_⟩, fun hs => hostWrite_of_ne_fetch hs w⟩
  exact ⟨congrArg RegFile.a hregs, congrArg RegFile.x hregs, congrArg RegFile.y hregs, congrArg RegFile.s hregs,
    congrArg RegFile.pc hregs, fun v hv => hostWrite_apply_p_of_some hv s.regs,
    fun hp => hostWrite_apply_p_of_none hp s.regs⟩

/-- Settles O58: each of the host's moves gives a well-formed state. -/
theorem reachableStatesAreWellFormed : Obligations.ReachableStatesAreWellFormed := by
  unfold Obligations.ReachableStatesAreWellFormed
  intro s h
  induction h with
  | powerUp r mem g hmem => exact powerUp_wellFormed r g hmem
  | cycle s t _ ht ih => exact cycleKeepsWellFormed s t ih ht
  | hostWrite w s t _ ht ih =>
    by_cases hs : s.phase = .fetch
    · cases ht.symm.trans (hostWrite_of_fetch hs w)
      exact hostApply_wellFormed ih w (wellFormed_iff.mp ih).2.2
    · cases ht.symm.trans (hostWrite_of_ne_fetch hs w)
  | hardReset w s _ ih => exact hostApply_wellFormed ih w rfl

theorem reset_eq_powerUp : State.reset = powerUp { a := 0, x := 0, y := 0, s := 0, pc := 0, p := 0 } [] [] := rfl

/-- Settles O59: power-up is its own definition, with bit 5 of P stored set. -/
theorem powerUpIsWellFormedInFetch : Obligations.PowerUpIsWellFormedInFetch := by
  unfold Obligations.PowerUpIsWellFormedInFetch
  exact ⟨fun r mem g hmem => ⟨rfl, rfl, rfl, powerUp_wellFormed r g hmem⟩, reset_eq_powerUp,
    reset_eq_powerUp ▸ powerUp_wellFormed _ [] rfl⟩

end Sys2Proof
end

section
/-! A machine's cycles run to their end: Done is reached within 6 Steps (42_compiler.md R196), and running on is
deterministic. -/

namespace Sys2Proof

open Sys2Proof.Machine Sys2Proof.Claims

theorem ok_t_le {m : StateMachine} (h : m.ok = true) : m.t ≤ maxSteps := by
  obtain ⟨hwf, -, ht, -⟩ := stateMachine_ok_iff.mp h
  exact ht.trans (lastCycle_le hwf)

theorem not_inExec_of_fetch {s : State} (hs : s.phase = .fetch) : ¬inExec s := by
  rintro ⟨m, hm⟩
  cases hs.symm.trans hm

theorem not_inExec_of_halted {s : State} {op : Byte} (hs : s.phase = .halted op) : ¬inExec s := by
  rintro ⟨m, hm⟩
  cases hs.symm.trans hm

theorem runCycles_succ {s t : State} (h : cycle s = .next t) (n : Nat) : runCycles (n + 1) s = runCycles n t := by
  simp [runCycles, Result.andThen, h]

/-- A machine in its table runs on for some cycles, all but the last of them in phase Exec, to phase Fetch; it has at
most `maxSteps` cycles in all. -/
theorem runCycles_of_ok (j : Nat) {s : State} {m : StateMachine} (hs : s.phase = .exec m) (hok : m.ok = true)
    (hj : maxSteps + 1 - m.t = j) :
    ∃ n t, 1 ≤ n ∧ n ≤ j ∧ runCycles n s = .next t ∧ t.phase = .fetch ∧ t.history.length = s.history.length + n ∧
      ∀ k, k < n → ∃ u, runCycles k s = .next u ∧ inExec u ∧ u.history.length = s.history.length + k := by
  have hle := ok_t_le hok
  induction j generalizing s m with
  | zero => omega
  | succ j ih =>
    obtain ⟨u, acc, hu, hreq, -, hnext⟩ := cycle_of_ok hs hok
    obtain ⟨-, hhist, -⟩ := cycle_of_request hreq hu
    have hlength : u.history.length = s.history.length + 1 := by rw [hhist]; rfl
    have hstart : ∃ u, runCycles 0 s = .next u ∧ inExec u ∧ u.history.length = s.history.length + 0 :=
      ⟨s, rfl, ⟨m, hs⟩, rfl⟩
    obtain hfetch | ⟨m', hexec, hok', ht'⟩ := hnext
    · refine ⟨1, u, Nat.le_refl 1, Nat.le_add_left 1 j, by rw [runCycles_succ hu]; rfl, hfetch, hlength, fun k hk => ?_⟩
      obtain rfl : k = 0 := by omega
      exact hstart
    · obtain ⟨n, t, hpos, hn, hrun, hphase, hhistory, hbefore⟩ := ih hexec hok' (by omega) (ok_t_le hok')
      refine ⟨n + 1, t, Nat.le_add_left 1 n, by omega, by rw [runCycles_succ hu, hrun], hphase, by omega,
        fun k hk => ?_⟩
      cases k with
      | zero => exact hstart
      | succ k =>
        obtain ⟨v, hv, hin, hlen⟩ := hbefore k (by omega)
        exact ⟨v, by rw [runCycles_succ hu, hv], hin, by omega⟩

/-- Settles O12: after the fetch the machine has its first cycle before it, and at most 6 in all. -/
theorem everyInstructionEndsWithinSevenCycles : Obligations.EveryInstructionEndsWithinSevenCycles := by
  unfold Obligations.EveryInstructionEndsWithinSevenCycles
  intro s hs
  cases he : entryOf (s.answer s.regs.pc) with
  | none =>
    have hcycle := cycle_eq_takeIllegalOpcode hs he
    refine ⟨1, _, Nat.le_refl 1, by decide, by rw [runCycles_succ hcycle]; rfl, ?_, rfl,
      ⟨fun _ => ⟨_, rfl⟩, fun _ => rfl⟩, fun k h1 hk => by omega⟩
    have hhalted : (s.takeIllegalOpcode (s.answer s.regs.pc)).phase = .halted (s.answer s.regs.pc) := rfl
    exact not_inExec_of_halted hhalted
  | some e =>
    have hcycle := cycle_of_entryOf_eq_some hs he
    have hok : (fetchedMachine e s).ok = true := fetchedMachine_ok he
    obtain ⟨n, t, hpos, hn, hrun, hphase, hhistory, hbefore⟩ :=
      runCycles_of_ok maxSteps (s := s.opcodeFetch.setPhase (.exec (fetchedMachine e s))) rfl hok rfl
    have hlength : (s.opcodeFetch.setPhase (.exec (fetchedMachine e s))).history.length = s.history.length + 1 := rfl
    refine ⟨n + 1, t, Nat.le_add_left 1 n, Nat.succ_le_succ hn, by rw [runCycles_succ hcycle, hrun],
      not_inExec_of_fetch hphase, by omega, ⟨fun h => by omega, ?_⟩, fun k h1 hk => ?_⟩
    · rintro ⟨op, hop⟩
      cases hphase.symm.trans hop
    · obtain ⟨k, rfl⟩ := Nat.exists_eq_add_of_le' h1
      obtain ⟨u, hu, hin, hlen⟩ := hbefore k (by omega)
      exact ⟨u, by rw [runCycles_succ hcycle, hu], hin, by omega⟩

/-! ### Running to the instruction boundary -/

theorem finish_of_not_inExec {s : State} (h : ¬inExec s) (n : Nat) : finish n s = .next s := by
  cases n with
  | zero => rfl
  | succ n =>
    unfold finish
    split
    next m hm => exact absurd ⟨m, hm⟩ h
    next => rfl
    next => rfl

theorem finish_succ {s t : State} (hs : inExec s) (ht : cycle s = .next t) (n : Nat) :
    finish (n + 1) s = finish n t := by
  obtain ⟨m, hm⟩ := hs
  simp [finish, hm, ht, Result.andThen]

/-- Enough cycles bring a machine in its table to phase Fetch. -/
theorem finish_of_ok (n : Nat) {s : State} {m : StateMachine} (hs : s.phase = .exec m) (hok : m.ok = true)
    (hn : maxSteps < n + m.t) : ∃ t, finish n s = .next t ∧ t.phase = .fetch := by
  induction n generalizing s m with
  | zero => exact absurd (ok_t_le hok) (by omega)
  | succ n ih =>
    obtain ⟨u, acc, hu, -, -, hnext⟩ := cycle_of_ok hs hok
    rw [finish_succ ⟨m, hs⟩ hu]
    obtain hfetch | ⟨m', hexec, hok', ht'⟩ := hnext
    · exact ⟨u, finish_of_not_inExec (not_inExec_of_fetch hfetch) n, hfetch⟩
    · exact ih hexec hok' (by omega)

/-- `finish` from a machine in its table ends in phase Fetch (R196). -/
theorem finish_maxSteps_of_ok {s : State} {m : StateMachine} (hs : s.phase = .exec m) (hok : m.ok = true) :
    ∃ t, finish maxSteps s = .next t ∧ t.phase = .fetch := by
  obtain ⟨-, hpos, -, -⟩ := stateMachine_ok_iff.mp hok
  exact finish_of_ok maxSteps hs hok (by omega)

theorem finish_wellFormed (n : Nat) {s t : State} (hwf : s.wellFormed = true) (h : finish n s = .next t) :
    t.wellFormed = true := by
  induction n generalizing s with
  | zero => cases h; exact hwf
  | succ n ih =>
    by_cases hs : inExec s
    · cases hc : cycle s with
      | next u => exact ih (cycleKeepsWellFormed s u hwf hc) (finish_succ hs hc n ▸ h)
      | fault e | refused e =>
        obtain ⟨m, hm⟩ := hs
        simp [finish, hm, hc, Result.andThen] at h
    · cases (finish_of_not_inExec hs (n + 1)).symm.trans h
      exact hwf

/-- One cycle of an active machine. -/
def ExecCycle (s t : State) : Prop := inExec s ∧ cycle s = .next t

/-- Any number of cycles of active machines. -/
abbrev ExecCycles : State → State → Prop := Relation.ReflTransGen ExecCycle

/-- `finish` goes on from any state it passes, with the cycles that are left. -/
theorem finish_of_execCycles {s u t : State} (h : ExecCycles s u) {n : Nat} (hn : finish n s = .next t)
    (ht : ¬inExec t) : ∃ j, finish j u = .next t := by
  induction h using Relation.ReflTransGen.head_induction_on generalizing n with
  | refl => exact ⟨n, hn⟩
  | head hfirst _ ih =>
    obtain ⟨hin, hcycle⟩ := hfirst
    cases n with
    | zero => cases hn; exact absurd hin ht
    | succ n => exact ih (finish_succ hin hcycle n ▸ hn)

/-- The instruction boundary that the cycles of a machine in its table lead to is the one where `finish` ends. -/
theorem finish_eq_of_execCycles {s t : State} {m : StateMachine} (hs : s.phase = .exec m) (hok : m.ok = true)
    (h : ExecCycles s t) (ht : ¬inExec t) : finish maxSteps s = .next t := by
  obtain ⟨u, hu, hfetch⟩ := finish_maxSteps_of_ok hs hok
  obtain ⟨j, hj⟩ := finish_of_execCycles h hu (not_inExec_of_fetch hfetch)
  exact hu.trans (hj.symm.trans (finish_of_not_inExec ht j))

end Sys2Proof
end

section
/-! The machines simulate the shapes (42_compiler.md R191, 45_arbiter.md R248): from the opcode fetch to Done the
cycles of a machine pass through the states of its shape, with the machine active in each. -/

namespace Sys2Proof

open Sys2Proof.Machine Sys2Proof.Claims

/-! ### One cycle, on the states of a shape -/

/-- A read cycle of the machine `m`, active in the state `u` of a shape. -/
theorem execCycle_read {m : StateMachine} {u : State} {a : Word} {k : Byte → After}
    (h : pendingStep m u.regs = some (.read a k)) :
    ExecCycle (u.setPhase (.exec m)) (settle (k (u.answer a)) (u.perform (.read a))) :=
  ⟨⟨m, rfl⟩, cycle_of_exec (s := u.setPhase (.exec m)) rfl h⟩

/-- A write cycle of the machine `m`, active in the state `u` of a shape, with a change `f` of the registers. -/
theorem execCycle_write {m : StateMachine} {u : State} {a : Word} {v : Byte} {f : RegFile → RegFile}
    {next : Option StateMachine} (h : pendingStep m u.regs = some (.write a v (f u.regs, next))) :
    let t := (u.busWrite a v).mapRegs f
    ExecCycle (u.setPhase (.exec m)) (settle (t.regs, next) t) := by
  refine ⟨⟨m, rfl⟩, (cycle_of_exec (s := u.setPhase (.exec m)) rfl h).trans ?_⟩
  have hregs : ((u.busWrite a v).mapRegs f).regs = f u.regs := by simp
  rw [hregs]
  simp only [State.busWrite_eq, State.perform, State.store]
  by_cases hhost : u.hostAnswers a = true
  · have hhost' : (u.setPhase (.exec m)).hostAnswers a = true := hhost
    simp only [BusStep.access, hhost, hhost', if_true]
    rfl
  · have hhost' : ¬(u.setPhase (.exec m)).hostAnswers a = true := hhost
    simp only [BusStep.access, hhost, hhost']
    rfl

/-- The end of an indexed mode, from the latched base and address on: the extra cycle is taken if it is due (R166,
R179). -/
theorem execCycles_indexed {e : Entry} {wl : Bool} {t : Nat} {l : Latches} {s u : State}
    {deliver : StateMachine → RegFile → After}
    (hlast : (StateMachine.mk e t wl l).modeCycles = if crossed l.base l.ea || wl then t + 1 else t)
    (hread : (crossed l.base l.ea || wl) = true → pendingStep ⟨e, t + 1, wl, l⟩ u.regs =
      some (.read (unfixed l.base l.ea) fun _ => deliver ⟨e, t + 1, wl, l⟩ u.regs))
    (hbefore : ExecCycles s (settle (StateMachine.indexed ⟨e, t, wl, l⟩ u.regs deliver) u)) :
    ∃ t', t' = (StateMachine.mk e t' wl l).modeCycles ∧
      let v := indexCycle wl l.base l.ea u
      ExecCycles s (settle (deliver ⟨e, t', wl, l⟩ v.regs) v) := by
  by_cases htake : (crossed l.base l.ea || wl) = true
  · have hindexed : StateMachine.indexed ⟨e, t, wl, l⟩ u.regs deliver = StateMachine.proceed ⟨e, t, wl, l⟩ u.regs :=
      if_pos htake
    have hcycle : indexCycle wl l.base l.ea u = u.dummyRead (unfixed l.base l.ea) := if_pos htake
    rw [hindexed] at hbefore
    refine ⟨t + 1, (hlast.trans (if_pos htake)).symm, ?_⟩
    rw [hcycle]
    exact hbefore.tail (execCycle_read (hread htake))
  · have hindexed : StateMachine.indexed ⟨e, t, wl, l⟩ u.regs deliver = deliver ⟨e, t, wl, l⟩ u.regs := if_neg htake
    have hcycle : indexCycle wl l.base l.ea u = u := if_neg htake
    rw [hindexed] at hbefore
    refine ⟨t, (hlast.trans (if_neg htake)).symm, ?_⟩
    rw [hcycle]
    exact hbefore

/-! ### The cycles of an addressing mode -/

/-- The two bytes the bus answers next at PC. -/
def nextBytes (u : State) : List Byte := [u.answer u.regs.pc, u.operandFetch.answer (u.regs.pc + 1)]

theorem eq_answer_of_prefix {u : State} {b : Byte} (h : [b] <+: nextBytes u) : b = u.answer u.regs.pc :=
  (List.cons_prefix_cons.mp h).1

theorem eq_cat_of_prefix {u : State} {a : Word} (h : [lo a, hi a] <+: nextBytes u) :
    a = cat (u.operandFetch.answer (u.regs.pc + 1)) (u.answer u.regs.pc) := by
  obtain ⟨hlo, hrest⟩ := List.cons_prefix_cons.mp h
  obtain ⟨hhi, -⟩ := List.cons_prefix_cons.mp hrest
  rw [← hlo, ← hhi, cat_hi_lo]

/-- The cycles of an addressing mode pass through the states of `resolve`, and end where the address is delivered. -/
theorem execCycles_resolve {op : Op} {o : MemOperand} {wl : Bool} {l : Latches} {u : State}
    {deliver : StateMachine → RegFile → After}
    (hstep : ∀ t l r, t ≤ (StateMachine.mk ⟨op, o.mode⟩ t wl l).modeCycles →
      pendingStep ⟨⟨op, o.mode⟩, t, wl, l⟩ r = modeStep deliver ⟨⟨op, o.mode⟩, t, wl, l⟩ r)
    (hbytes : o.bytes <+: nextBytes u) :
    ∃ t l', t = (StateMachine.mk ⟨op, o.mode⟩ t wl l').modeCycles ∧
      let d := resolve wl o u
      l'.ea = d.1 ∧ ExecCycles (u.setPhase (.exec ⟨⟨op, o.mode⟩, 1, wl, l⟩))
        (settle (deliver ⟨⟨op, o.mode⟩, t, wl, l'⟩ d.2.regs) d.2) := by
  cases o with
  | zp z =>
    obtain rfl := eq_answer_of_prefix hbytes
    exact ⟨1, ⟨_, _, _, _, _, _, _, _⟩, rfl, rfl, .single (execCycle_read (hstep 1 l _ (Nat.le_refl 1)))⟩
  | zpx z | zpy z =>
    obtain rfl := eq_answer_of_prefix hbytes
    have h1 := execCycle_read (u := u) (hstep 1 l _ (Nat.le_of_ble_eq_true rfl))
    have h2 := execCycle_read (u := u.operandFetch)
      (hstep 2 { l with adl := u.answer u.regs.pc } _ (Nat.le_of_ble_eq_true rfl))
    exact ⟨2, ⟨_, _, _, _, _, _, _, _⟩, rfl, rfl, .tail (.single h1) h2⟩
  | abs a =>
    obtain rfl := eq_cat_of_prefix hbytes
    have h1 := execCycle_read (u := u) (hstep 1 l _ (Nat.le_of_ble_eq_true rfl))
    have h2 := execCycle_read (u := u.operandFetch)
      (hstep 2 { l with adl := u.answer u.regs.pc } _ (Nat.le_of_ble_eq_true rfl))
    exact ⟨2, ⟨_, _, _, _, _, _, _, _⟩, rfl, rfl, .tail (.single h1) h2⟩
  | abx a | aby a =>
    obtain rfl := eq_cat_of_prefix hbytes
    let b1 := u.answer u.regs.pc
    let b2 := u.operandFetch.answer (u.regs.pc + 1)
    have h1 := execCycle_read (u := u) (hstep 1 l _ (lt_modeCycles rfl))
    have h2 := execCycle_read (u := u.operandFetch) (hstep 2 { l with adl := b1 } _ (lt_modeCycles rfl))
    obtain ⟨t, ht, h3⟩ := execCycles_indexed (l := ⟨b1, b2, _, cat b2 b1, _, _, _, _⟩)
      (u := u.operandFetch.operandFetch) (t := 2) (deliver := deliver) rfl
      (fun htake => by
        rw [unfixed, hi_cat]
        exact hstep 3 _ _ (Nat.le_of_eq (if_pos htake).symm))
      (.tail (.single h1) h2)
    exact ⟨t, _, ht, rfl, h3⟩
  | izx p =>
    obtain rfl := eq_answer_of_prefix hbytes
    let b := u.answer u.regs.pc
    let ptr := b + u.regs.x
    let v := u.operandFetch.dummyRead (zext16 b)
    have h1 := execCycle_read (u := u) (hstep 1 l _ (Nat.le_of_ble_eq_true rfl))
    have h2 := execCycle_read (u := u.operandFetch) (hstep 2 { l with ptr := b } _ (Nat.le_of_ble_eq_true rfl))
    have h3 := execCycle_read (u := v) (hstep 3 { l with ptr := ptr } _ (Nat.le_of_ble_eq_true rfl))
    have h4 := execCycle_read (u := (v.busRead (zext16 ptr)).2)
      (hstep 4 { l with ptr := ptr, adl := v.answer (zext16 ptr) } _ (Nat.le_of_ble_eq_true rfl))
    exact ⟨4, ⟨_, _, _, _, _, _, _, _⟩, rfl, rfl, .tail (.tail (.tail (.single h1) h2) h3) h4⟩
  | izy p =>
    obtain rfl := eq_answer_of_prefix hbytes
    let b := u.answer u.regs.pc
    let low := u.operandFetch.busRead (zext16 b)
    let high := low.2.busRead (zext16 (b + 1))
    have h1 := execCycle_read (u := u) (hstep 1 l _ (lt_modeCycles rfl))
    have h2 := execCycle_read (u := u.operandFetch) (hstep 2 { l with ptr := b } _ (lt_modeCycles rfl))
    have h3 := execCycle_read (u := low.2) (hstep 3 { l with ptr := b, adl := low.1 } _ (lt_modeCycles rfl))
    obtain ⟨t, ht, h4⟩ := execCycles_indexed (l := ⟨low.1, high.1, _, cat high.1 low.1, _, _, _, _⟩)
      (u := high.2) (t := 3) (deliver := deliver) rfl
      (fun htake => by
        rw [unfixed, hi_cat]
        exact hstep 4 _ _ (Nat.le_of_eq (if_pos htake).symm))
      (.tail (.tail (.single h1) h2) h3)
    exact ⟨t, _, ht, rfl, h4⟩
  | ind a =>
    obtain rfl := eq_cat_of_prefix hbytes
    simp only [resolve, hi_cat, lo_cat]
    let b1 := u.answer u.regs.pc
    let b2 := u.operandFetch.answer (u.regs.pc + 1)
    let v := u.operandFetch.operandFetch
    have h1 := execCycle_read (u := u) (hstep 1 l _ (Nat.le_of_ble_eq_true rfl))
    have h2 := execCycle_read (u := u.operandFetch) (hstep 2 { l with adl := b1 } _ (Nat.le_of_ble_eq_true rfl))
    have h3 := execCycle_read (u := v) (hstep 3 { l with adl := b1, adh := b2 } _ (Nat.le_of_ble_eq_true rfl))
    have h4 := execCycle_read (u := (v.busRead (cat b2 b1)).2)
      (hstep 4 { l with adl := b1, adh := b2, data := v.answer (cat b2 b1) } _ (Nat.le_of_ble_eq_true rfl))
    exact ⟨4, ⟨_, _, _, _, _, _, _, _⟩, rfl, rfl, .tail (.tail (.tail (.single h1) h2) h3) h4⟩

/-! ### The cycles of each composition -/

/-- From the opcode fetch to Done the machine's cycles lead to the state that the shape answers. -/
def Simulates (e : Entry) (wl : Bool) (s : State) (x : Result) : Prop :=
  ∀ l, ∃ t, x = .next t ∧ t.phase = s.phase ∧
    ExecCycles (s.opcodeFetch.setPhase (.exec ⟨e, 1, wl, l⟩)) (t.setPhase .fetch)

/-- The cycles of an addressing mode, up to the first of its consumer. -/
theorem execCycles_addressed {op : Op} {o : MemOperand} {wl : Bool} {l : Latches} {u : State}
    {consumer : Nat → StateMachine → RegFile → Option BusStep}
    (hstep : ∀ m r, m.entry = ⟨op, o.mode⟩ → pendingStep m r = addressedStep consumer m r)
    (hbytes : o.bytes <+: nextBytes u) :
    let d := resolve wl o u
    ∃ t l', t = (StateMachine.mk ⟨op, o.mode⟩ t wl l').modeCycles + 1 ∧ l'.ea = d.1 ∧
      ExecCycles (u.setPhase (.exec ⟨⟨op, o.mode⟩, 1, wl, l⟩)) (d.2.setPhase (.exec ⟨⟨op, o.mode⟩, t, wl, l'⟩)) := by
  obtain ⟨t, l', ht, hea, hcycles⟩ := execCycles_resolve (l := l) (wl := wl)
    (fun t l r h => (hstep ⟨⟨op, o.mode⟩, t, wl, l⟩ r rfl).trans (if_pos h)) hbytes
  exact ⟨t + 1, l', congrArg (· + 1) ht, hea, hcycles⟩

theorem addressedStep_eq_consumer {m : StateMachine} {k : Nat} (h : m.t = m.modeCycles + (k + 1))
    (consumer : Nat → StateMachine → RegFile → Option BusStep) (r : RegFile) :
    addressedStep consumer m r = consumer (k + 1) m r := by
  rw [addressedStep, if_neg (by omega), h, Nat.add_sub_cancel_left]

theorem memOperand_mode_ne_imm (o : MemOperand) : o.mode ≠ .imm := by cases o <;> nofun

section
variable {op : Op} {s : State}

theorem simulates_readImmediate {f : Byte → RegFile → RegFile} (hc : compositionOf ⟨op, .imm⟩ = .read f) {v : Byte}
    (hbytes : [v] <+: nextBytes s.opcodeFetch) : Simulates ⟨op, .imm⟩ false s (readImmediate f v s) := by
  have hstep : ∀ t l r, pendingStep ⟨⟨op, .imm⟩, t, false, l⟩ r = readStep f ⟨⟨op, .imm⟩, t, false, l⟩ r :=
    fun t l r => by simp only [pendingStep, hc]
  obtain rfl := eq_answer_of_prefix hbytes
  exact fun l => ⟨_, rfl, rfl, .single (execCycle_read (hstep 1 l _))⟩

theorem simulates_readMemory {f : Byte → RegFile → RegFile} {o : MemOperand}
    (hc : compositionOf ⟨op, o.mode⟩ = .read f) (hbytes : o.bytes <+: nextBytes s.opcodeFetch) :
    Simulates ⟨op, o.mode⟩ false s (readMemory f o s) := by
  have hstep : ∀ m r, m.entry = ⟨op, o.mode⟩ → pendingStep m r = addressedStep (readConsumer f) m r := fun m r he => by
    rw [← readStep_eq_addressedStep (by rw [he]; exact memOperand_mode_ne_imm o)]
    simp only [pendingStep, he, hc]
  intro l
  obtain ⟨t, l', ht, hea, hcycles⟩ := execCycles_addressed (l := l) (wl := false) hstep hbytes
  have hlast := execCycle_read (u := (resolve false o s.opcodeFetch).2)
    ((hstep ⟨⟨op, o.mode⟩, t, false, l'⟩ _ rfl).trans (addressedStep_eq_consumer (k := 0) ht _ _))
  rw [hea] at hlast
  exact ⟨_, rfl, by simp, hcycles.tail hlast⟩

theorem simulates_storeMemory {source : RegFile → Byte} {o : MemOperand}
    (hc : compositionOf ⟨op, o.mode⟩ = .write source) (hbytes : o.bytes <+: nextBytes s.opcodeFetch) :
    Simulates ⟨op, o.mode⟩ true s (storeMemory source o s) := by
  have hstep : ∀ m r, m.entry = ⟨op, o.mode⟩ → pendingStep m r = addressedStep (writeConsumer source) m r :=
    fun m r he => by simp only [pendingStep, he, hc]
  intro l
  obtain ⟨t, l', ht, hea, hcycles⟩ := execCycles_addressed (l := l) (wl := true) hstep hbytes
  have hlast := execCycle_write (u := (resolve true o s.opcodeFetch).2) (f := id)
    ((hstep ⟨⟨op, o.mode⟩, t, true, l'⟩ _ rfl).trans (addressedStep_eq_consumer (k := 0) ht _ _))
  rw [hea] at hlast
  exact ⟨_, rfl, by simp, hcycles.tail hlast⟩

theorem simulates_modifyMemory {f : Byte → RegFile → Byte × RegFile} {o : MemOperand}
    (hc : compositionOf ⟨op, o.mode⟩ = .rmw f) (hbytes : o.bytes <+: nextBytes s.opcodeFetch) :
    Simulates ⟨op, o.mode⟩ true s (modifyMemory f o s) := by
  have hstep : ∀ m r, m.entry = ⟨op, o.mode⟩ → pendingStep m r = addressedStep (rmwConsumer f) m r :=
    fun m r he => by simp only [pendingStep, he, hc]
  intro l
  obtain ⟨t, l', ht, hea, hcycles⟩ := execCycles_addressed (l := l) (wl := true) hstep hbytes
  let d := resolve true o s.opcodeFetch
  let data := d.2.answer l'.ea
  let w := f data d.2.regs
  let l2 : Latches := { l' with data := data, res := w.1 }
  let u1 := (d.2.perform (.read l'.ea)).setRegs w.2
  have h1 : ExecCycle (d.2.setPhase _) (u1.setPhase (.exec ⟨⟨op, o.mode⟩, t + 1, true, l2⟩)) := execCycle_read
    ((hstep ⟨⟨op, o.mode⟩, t, true, l'⟩ _ rfl).trans (addressedStep_eq_consumer (k := 0) ht _ _))
  have h2 := execCycle_write (u := u1) (f := id)
    ((hstep ⟨⟨op, o.mode⟩, t + 1, true, l2⟩ _ rfl).trans
      (addressedStep_eq_consumer (k := 1) (congrArg (· + 1) ht) _ _))
  have h3 := execCycle_write (u := u1.busWrite l'.ea data) (f := id)
    ((hstep ⟨⟨op, o.mode⟩, t + 1 + 1, true, l2⟩ _ rfl).trans
      (addressedStep_eq_consumer (k := 2) (congrArg (· + 1 + 1) ht) _ _))
  refine ⟨_, rfl, by simp, ?_⟩
  rw [← hea]
  exact ((hcycles.tail h1).tail h2).tail h3

theorem simulates_jump {o : MemOperand} (hc : compositionOf ⟨op, o.mode⟩ = .jump)
    (hbytes : o.bytes <+: nextBytes s.opcodeFetch) : Simulates ⟨op, o.mode⟩ false s (jump o s) := by
  let deliver : StateMachine → RegFile → After := fun m r => (r.setPc m.latches.ea, none)
  have hstep : ∀ t l r, t ≤ (StateMachine.mk ⟨op, o.mode⟩ t false l).modeCycles →
      pendingStep ⟨⟨op, o.mode⟩, t, false, l⟩ r = modeStep deliver ⟨⟨op, o.mode⟩, t, false, l⟩ r := fun t l r h => by
    simp only [pendingStep, hc]
    exact if_pos h
  intro l
  obtain ⟨t, l', -, hea, hcycles⟩ := execCycles_resolve (l := l) hstep hbytes
  dsimp only [deliver] at hcycles
  rw [hea] at hcycles
  exact ⟨_, rfl, by simp, hcycles⟩

theorem simulates_implied {mode : Mode} {f : RegFile → RegFile} (hc : compositionOf ⟨op, mode⟩ = .implied f) :
    Simulates ⟨op, mode⟩ false s (implied f s) := by
  have hstep : ∀ t l r, pendingStep ⟨⟨op, mode⟩, t, false, l⟩ r = impliedStep f ⟨⟨op, mode⟩, t, false, l⟩ r :=
    fun t l r => by simp only [pendingStep, hc]
  exact fun l => ⟨_, rfl, rfl, .single (execCycle_read (hstep 1 l _))⟩

theorem simulates_jumpSubroutine {mode : Mode} (hc : compositionOf ⟨op, mode⟩ = .jsr) {a : Word}
    (hbytes : [lo a, hi a] <+: nextBytes s.opcodeFetch) : Simulates ⟨op, mode⟩ false s (jumpSubroutine a s) := by
  have hstep : ∀ t l r, pendingStep ⟨⟨op, mode⟩, t, false, l⟩ r = jsrStep ⟨⟨op, mode⟩, t, false, l⟩ r :=
    fun t l r => by simp only [pendingStep, hc]
  intro l
  let s1 := s.opcodeFetch.operandFetch
  let s2 := s1.dummyRead (stackAddress s1.regs.s)
  let s3 := s2.push (hi s2.regs.pc)
  let s4 := s3.push (lo s3.regs.pc)
  have hb : lo a = s.opcodeFetch.answer s.opcodeFetch.regs.pc := (List.cons_prefix_cons.mp hbytes).1
  have h1 := execCycle_read (u := s.opcodeFetch) (hstep 1 l _)
  rw [← hb] at h1
  have h2 := execCycle_read (u := s1) (hstep 2 { l with adl := lo a } _)
  have h3 := execCycle_write (u := s2) (f := fun r => r.setS (r.s - 1)) (hstep 3 { l with adl := lo a } _)
  have h4 := execCycle_write (u := s3) (f := fun r => r.setS (r.s - 1)) (hstep 4 { l with adl := lo a } _)
  have h5 := execCycle_read (u := s4) (hstep 5 { l with adl := lo a } _)
  exact ⟨_, rfl, by simp, .tail (.tail (.tail (.tail (.single h1) h2) h3) h4) h5⟩

theorem simulates_returnSubroutine {mode : Mode} (hc : compositionOf ⟨op, mode⟩ = .rts) :
    Simulates ⟨op, mode⟩ false s (returnSubroutine s) := by
  have hstep : ∀ t l r, pendingStep ⟨⟨op, mode⟩, t, false, l⟩ r = rtsStep ⟨⟨op, mode⟩, t, false, l⟩ r :=
    fun t l r => by simp only [pendingStep, hc]
  intro l
  let s1 := s.opcodeFetch
  let low := (pullCycles s).pull
  let high := low.2.pull
  have h1 := execCycle_read (u := s1) (hstep 1 l _)
  have h2 := execCycle_read (u := s1.dummyRead s1.regs.pc) (hstep 2 l _)
  have h3 := execCycle_read (u := pullCycles s) (hstep 3 l _)
  have h4 := execCycle_read (u := low.2) (hstep 4 { l with adl := low.1 } _)
  have h5 := execCycle_read (u := high.2) (hstep 5 { l with adl := low.1, adh := high.1 } _)
  exact ⟨_, rfl, by simp, .tail (.tail (.tail (.tail (.single h1) h2) h3) h4) h5⟩

theorem simulates_returnInterrupt {mode : Mode} (hc : compositionOf ⟨op, mode⟩ = .rti) :
    Simulates ⟨op, mode⟩ false s (returnInterrupt s) := by
  have hstep : ∀ t l r, pendingStep ⟨⟨op, mode⟩, t, false, l⟩ r = rtiStep ⟨⟨op, mode⟩, t, false, l⟩ r :=
    fun t l r => by simp only [pendingStep, hc]
  intro l
  let s1 := s.opcodeFetch
  let p := (pullCycles s).pull
  let s4 := p.2.mapRegs (RegFile.pullP p.1)
  let low := s4.pull
  have h1 := execCycle_read (u := s1) (hstep 1 l _)
  have h2 := execCycle_read (u := s1.dummyRead s1.regs.pc) (hstep 2 l _)
  have h3 := execCycle_read (u := pullCycles s) (hstep 3 l _)
  have h4 := execCycle_read (u := s4) (hstep 4 l _)
  have h5 := execCycle_read (u := low.2) (hstep 5 { l with adl := low.1 } _)
  exact ⟨_, rfl, by simp [State.returnFromInterrupt], .tail (.tail (.tail (.tail (.single h1) h2) h3) h4) h5⟩

theorem simulates_breakInstruction {mode : Mode} (hc : compositionOf ⟨op, mode⟩ = .brk) (pad : Byte) :
    Simulates ⟨op, mode⟩ false s (breakInstruction pad s) := by
  have hstep : ∀ t l r, pendingStep ⟨⟨op, mode⟩, t, false, l⟩ r = brkStep ⟨⟨op, mode⟩, t, false, l⟩ r :=
    fun t l r => by simp only [pendingStep, hc]
  intro l
  let s1 := s.opcodeFetch.operandFetch
  let s2 := s1.push (hi s1.regs.pc)
  let s3 := s2.push (lo s2.regs.pc)
  let s4 := (s3.push s3.regs.pushedP).mapRegs (RegFile.setFlag .i true)
  let low := s4.busRead breakVectorLow
  have h1 := execCycle_read (u := s.opcodeFetch) (hstep 1 l _)
  have h2 := execCycle_write (u := s1) (f := fun r => r.setS (r.s - 1)) (hstep 2 l _)
  have h3 := execCycle_write (u := s2) (f := fun r => r.setS (r.s - 1)) (hstep 3 l _)
  have h4 := execCycle_write (u := s3) (f := fun r => (r.setS (r.s - 1)).setFlag .i true) (hstep 4 l _)
  have h5 := execCycle_read (u := s4) (hstep 5 l _)
  have h6 := execCycle_read (u := low.2) (hstep 6 { l with adl := low.1 } _)
  exact ⟨_, rfl, by simp [State.enterBreak], .tail (.tail (.tail (.tail (.tail (.single h1) h2) h3) h4) h5) h6⟩

theorem simulates_pushRegister {mode : Mode} {source : RegFile → Byte} (hc : compositionOf ⟨op, mode⟩ = .push source) :
    Simulates ⟨op, mode⟩ false s (pushRegister source s) := by
  have hstep : ∀ t l r, pendingStep ⟨⟨op, mode⟩, t, false, l⟩ r = pushStep source ⟨⟨op, mode⟩, t, false, l⟩ r :=
    fun t l r => by simp only [pendingStep, hc]
  intro l
  let s1 := s.opcodeFetch
  have h1 := execCycle_read (u := s1) (hstep 1 l _)
  have h2 := execCycle_write (u := s1.dummyRead s1.regs.pc) (f := fun r => r.setS (r.s - 1)) (hstep 2 l _)
  exact ⟨_, rfl, by simp, .tail (.single h1) h2⟩

theorem simulates_pullRegister {mode : Mode} {f : Byte → RegFile → RegFile} (hc : compositionOf ⟨op, mode⟩ = .pull f) :
    Simulates ⟨op, mode⟩ false s (pullRegister f s) := by
  have hstep : ∀ t l r, pendingStep ⟨⟨op, mode⟩, t, false, l⟩ r = pullStep f ⟨⟨op, mode⟩, t, false, l⟩ r :=
    fun t l r => by simp only [pendingStep, hc]
  intro l
  let s1 := s.opcodeFetch
  have h1 := execCycle_read (u := s1) (hstep 1 l _)
  have h2 := execCycle_read (u := s1.dummyRead s1.regs.pc) (hstep 2 l _)
  have h3 := execCycle_read (u := pullCycles s) (hstep 3 l _)
  exact ⟨_, rfl, by simp, .tail (.tail (.single h1) h2) h3⟩

theorem simulates_branch {mode : Mode} {cond : RegFile → Bool} (hc : compositionOf ⟨op, mode⟩ = .branch cond)
    {off : Byte} (hbytes : [off] <+: nextBytes s.opcodeFetch) : Simulates ⟨op, mode⟩ false s (branch cond off s) := by
  have hstep : ∀ t l r, pendingStep ⟨⟨op, mode⟩, t, false, l⟩ r = branchStep cond ⟨⟨op, mode⟩, t, false, l⟩ r :=
    fun t l r => by simp only [pendingStep, hc]
  obtain rfl := eq_answer_of_prefix hbytes
  intro l
  let s1 := s.opcodeFetch.operandFetch
  let base := s1.regs.pc
  let off := s.opcodeFetch.answer s.opcodeFetch.regs.pc
  let ea := branchTarget base off
  let l1 : Latches := { l with off := off, base := base, ea := ea }
  let s2 := (s1.dummyRead base).mapRegs (RegFile.setPc ea)
  have h1 := execCycle_read (u := s.opcodeFetch) (hstep 1 l _)
  have hcond : cond s.opcodeFetch.regs.incPc = cond s1.regs := rfl
  by_cases htaken : cond s1.regs = true
  · have hshape : branch cond off s = .next (indexCycle false base ea s2) := if_pos htaken
    have h2 := execCycle_read (u := s1) (hstep 2 l1 _)
    rw [hcond, if_pos htaken] at h1
    by_cases hcross : crossed base ea = true
    · have h3 := execCycle_read (u := s2) (hstep 3 l1 _)
      have hend : indexCycle false base ea s2 = s2.dummyRead (unfixed base ea) := if_pos (by simp [hcross])
      rw [if_pos (show crossed l1.base l1.ea = true from hcross)] at h2
      exact ⟨_, hshape.trans (congrArg _ hend), rfl, .tail (.tail (.single h1) h2) h3⟩
    · have hend : indexCycle false base ea s2 = s2 := if_neg (by simp [hcross])
      rw [if_neg (show ¬crossed l1.base l1.ea = true from hcross)] at h2
      exact ⟨_, hshape.trans (congrArg _ hend), rfl, .tail (.single h1) h2⟩
  · have hshape : branch cond off s = .next s1 := if_neg htaken
    rw [hcond, if_neg htaken] at h1
    exact ⟨_, hshape, rfl, .single h1⟩

end

/-! ### The simulation of every instruction -/

theorem op_eq_brk_of_compositionOf {op : Op} {mode : Mode} (h : compositionOf ⟨op, mode⟩ = .brk) : op = .brk := by
  cases op with
  | brk => rfl
  | asl | lsr | rol | ror => cases mode <;> cases h
  | _ => cases h

/-- A composition simulates its shape on each operand form it is built for. -/
theorem simulates_runComposition {op : Op} {o : Operand} {c : Composition} (hc : compositionOf ⟨op, o.mode⟩ = c)
    (hmode : o.mode ∈ compositionModes c) (hpad : o.padFits op = true) {s : State}
    (hbytes : o.bytes <+: nextBytes s.opcodeFetch) :
    Simulates ⟨op, o.mode⟩ c.writeLike s (runComposition c o s) := by
  cases c with
  | read f =>
    cases o with
    | imm v => exact simulates_readImmediate hc hbytes
    | mem m => exact simulates_readMemory hc hbytes
    | imp | pad b | acc | rel off => simp [compositionModes, Operand.mode] at hmode
  | write source =>
    cases o with
    | mem m => exact simulates_storeMemory hc hbytes
    | imp | pad b | acc | imm v | rel off => simp [compositionModes, Operand.mode] at hmode
  | rmw f =>
    cases o with
    | mem m => exact simulates_modifyMemory hc hbytes
    | imp | pad b | acc | imm v | rel off => simp [compositionModes, Operand.mode] at hmode
  | implied f => exact simulates_implied hc
  | jump =>
    cases o with
    | mem m => exact simulates_jump hc hbytes
    | imp | pad b | acc | imm v | rel off => simp [compositionModes, Operand.mode] at hmode
  | jsr =>
    cases o with
    | mem m =>
      cases m with
      | abs a => exact simulates_jumpSubroutine hc hbytes
      | zp z | zpx z | zpy z | abx a | aby a | izx p | izy p | ind a =>
        simp [compositionModes, Operand.mode, MemOperand.mode] at hmode
    | imp | pad b | acc | imm v | rel off => simp [compositionModes, Operand.mode] at hmode
  | rts => exact simulates_returnSubroutine hc
  | rti => exact simulates_returnInterrupt hc
  | brk =>
    cases o with
    | pad b => exact simulates_breakInstruction hc b
    | imp =>
      obtain rfl := op_eq_brk_of_compositionOf hc
      cases hpad
    | mem m => cases m <;> simp [compositionModes, Operand.mode, MemOperand.mode] at hmode
    | acc | imm v | rel off => simp [compositionModes, Operand.mode] at hmode
  | push source => exact simulates_pushRegister hc
  | pull f => exact simulates_pullRegister hc
  | branch cond =>
    cases o with
    | rel off => exact simulates_branch hc hbytes
    | mem m => cases m <;> simp [compositionModes, Operand.mode, MemOperand.mode] at hmode
    | imp | pad b | acc | imm v => simp [compositionModes, Operand.mode] at hmode

/-- Where the next bytes are those of the operand, the instruction's machine simulates its meaning. -/
theorem simulates_exec {i : Instr} {s : State} (hbytes : i.operand.bytes <+: nextBytes s.opcodeFetch) :
    Simulates i.entry (compositionOf i.entry).writeLike s (exec i s) := by
  rw [exec_eq_runComposition]
  exact simulates_runComposition rfl (mode_mem_compositionModes (entry_wellFormed i)) (operand_padFits i) hbytes

theorem setPhase_phase_self {s : State} {ph : Phase} (h : s.phase = ph) : s.setPhase ph = s := by
  subst h
  rfl

/-- A legal opcode at PC: the fetched bytes decode to an instruction of its entry, with its operand's bytes after it. -/
theorem exists_decode_fetchedBytes {s : State} {e : Entry} (he : entryOf (s.answer s.regs.pc) = some e) :
    ∃ i rest, decode s.fetchedBytes = .ok i rest ∧ i.entry = e ∧ i.operand.bytes <+: nextBytes s.opcodeFetch := by
  obtain ⟨i, rest, hdecode, -⟩ := exists_decode_eq_ok_of_entryOf_eq_some he
    (s.opcodeFetch.answer s.opcodeFetch.regs.pc) (s.opcodeFetch.operandFetch.answer (s.opcodeFetch.regs.pc + 1)) []
  obtain ⟨op, hop, hbytes⟩ := decode_eq_ok hdecode
  obtain ⟨rfl, hrest⟩ := List.cons.inj hbytes
  exact ⟨i, rest, hdecode, Option.some.inj (hop.symm.trans he), rest, hrest.symm⟩

/-- Settles O11: an illegal opcode is taken alike; from a legal one the cycles of its machine lead to the state of its
shape, which is the instruction's meaning, and `finish` ends where they lead. -/
theorem stepIsTheArbitersCycles : Obligations.StepIsTheArbitersCycles := by
  unfold Obligations.StepIsTheArbitersCycles
  intro s hs
  cases he : entryOf (s.answer s.regs.pc) with
  | none =>
    rw [runInstruction, cycle_eq_takeIllegalOpcode hs he, step_eq_takeIllegalOpcode hs he]
    have hhalted : (s.takeIllegalOpcode (s.answer s.regs.pc)).phase = .halted (s.answer s.regs.pc) := rfl
    exact finish_of_not_inExec (not_inExec_of_halted hhalted) maxSteps
  | some e =>
    obtain ⟨i, rest, hdecode, rfl, hbytes⟩ := exists_decode_fetchedBytes he
    obtain ⟨t, hexec, hphase, hcycles⟩ := simulates_exec hbytes (Config.freshLatches (s.history.length + 1))
    have hfetch : t.phase = .fetch := hphase.trans hs
    rw [setPhase_phase_self hfetch] at hcycles
    rw [stepRunsTheDecodedInstruction s i rest hs hdecode, hexec, runInstruction, cycle_of_entryOf_eq_some hs he]
    exact finish_eq_of_execCycles rfl (fetchedMachine_ok he) hcycles (not_inExec_of_fetch hfetch)

end Sys2Proof
end

section
/-! Every step from a well-formed state, of a cycle or of a whole instruction, answers a well-formed state
(45_arbiter.md R248, R249). -/

namespace Sys2Proof

open Sys2Proof.Machine Sys2Proof.Claims

theorem step_of_halted {s : State} {op : Byte} (hs : s.phase = .halted op) : step s = .next s := by
  simp [step, hs]

theorem step_of_exec {s : State} {m : StateMachine} (hs : s.phase = .exec m) : step s = finish maxSteps s := by
  simp [step, hs]

/-- The step in phase Fetch is the fetch cycle and the cycles to the next instruction boundary. -/
theorem step_of_fetch {s t : State} (hs : s.phase = .fetch) (ht : cycle s = .next t) : step s = finish maxSteps t := by
  rw [← stepIsTheArbitersCycles s hs, runInstruction, ht]
  rfl

theorem exists_cycle_of_fetch {s : State} (hs : s.phase = .fetch) : ∃ t, cycle s = .next t := by
  cases he : entryOf (s.answer s.regs.pc) with
  | none => exact ⟨_, cycle_eq_takeIllegalOpcode hs he⟩
  | some e => exact ⟨_, cycle_of_entryOf_eq_some hs he⟩

/-- Settles O55: the step is a run of cycles, each of which keeps a state well-formed. -/
theorem stepKeepsWellFormed : Obligations.StepKeepsWellFormed := by
  unfold Obligations.StepKeepsWellFormed
  intro s t hwf ht
  cases hs : s.phase with
  | fetch =>
    obtain ⟨u, hu⟩ := exists_cycle_of_fetch hs
    exact finish_wellFormed maxSteps (cycleKeepsWellFormed s u hwf hu) (step_of_fetch hs hu ▸ ht)
  | exec m => exact finish_wellFormed maxSteps hwf (step_of_exec hs ▸ ht)
  | halted op =>
    cases ht.symm.trans (step_of_halted hs)
    exact hwf

/-- From a legal phase the cycles to the next instruction boundary come to an end. -/
theorem finish_of_phase_ok {s : State} (h : s.phase.ok = true) : ∃ t, finish maxSteps s = .next t ∧ ¬inExec t := by
  cases hs : s.phase with
  | fetch => exact ⟨s, finish_of_not_inExec (not_inExec_of_fetch hs) _, not_inExec_of_fetch hs⟩
  | exec m =>
    obtain ⟨t, ht, hfetch⟩ := finish_maxSteps_of_ok hs (by rwa [hs] at h)
    exact ⟨t, ht, not_inExec_of_fetch hfetch⟩
  | halted op => exact ⟨s, finish_of_not_inExec (not_inExec_of_halted hs) _, not_inExec_of_halted hs⟩

/-- Settles O57: in each phase the cycle answers, and the step runs cycles from a legal phase. -/
theorem wellFormedStatesNeverStop : Obligations.WellFormedStatesNeverStop := by
  unfold Obligations.WellFormedStatesNeverStop
  intro s hwf
  obtain ⟨-, -, hok⟩ := wellFormed_iff.mp hwf
  cases hs : s.phase with
  | fetch =>
    obtain ⟨u, hu⟩ := exists_cycle_of_fetch hs
    obtain ⟨-, -, hok'⟩ := wellFormed_iff.mp (cycleKeepsWellFormed s u hwf hu)
    exact ⟨step_of_fetch hs hu ▸ finish_of_phase_ok hok', u, hu⟩
  | exec m =>
    obtain ⟨u, acc, hu, -⟩ := cycle_of_ok hs (by rwa [hs] at hok)
    exact ⟨step_of_exec hs ▸ finish_of_phase_ok hok, u, hu⟩
  | halted op => exact ⟨⟨s, step_of_halted hs, not_inExec_of_halted hs⟩, s, cycle_of_halted hs⟩

end Sys2Proof
end

section
/-! The addressing modes in exact form (41_addressing.md R162 to R169): the delivered address, the reads, PC. -/

namespace Sys2Proof

open Sys2Proof.Machine Sys2Proof.Claims

theorem add_eq_ofNat_mod (a b : Byte) : a + b = BitVec.ofNat 8 ((a.toNat + b.toNat) % 256) :=
  BitVec.eq_of_toNat_eq (by simp [BitVec.toNat_add])

theorem add_zext16_eq_ofNat_mod (a : Word) (b : Byte) : a + zext16 b = BitVec.ofNat 16 ((a.toNat + b.toNat) % 65536) :=
  BitVec.eq_of_toNat_eq (by simp [BitVec.toNat_add, zext16])

theorem zpy_mem_modes_iff (op : Op) : Mode.zpy ∈ op.modes ↔ op = .ldx ∨ op = .stx := by
  cases op <;> decide

/-- Settles O20: the zero-extended byte and the sum mod 256 are what the modes deliver; ZPY is in no other list of
modes. -/
theorem zeroPageModesStayInPageZero : Obligations.ZeroPageModesStayInPageZero := by
  unfold Obligations.ZeroPageModesStayInPageZero
  refine ⟨fun wl z s => ?_, fun i hmode => (zpy_mem_modes_iff i.op).mp (hmode ▸ mode_mem_modes i)⟩
  dsimp only
  simp only [← add_eq_ofNat_mod, ← zext16_eq_cat]
  exact ⟨rfl, rfl, rfl⟩

/-- The extra cycle is a read at the unfixed address, for a write-like operation or when the high byte changes (R179).
-/
theorem indexCycle_eq (wl : Bool) (base ea : Word) (s : State) :
    indexCycle wl base ea s = { s with
      history := if wl = true ∨ hi base ≠ hi ea then .read (cat (hi base) (lo ea)) :: s.history else s.history } := by
  have hdue : (crossed base ea || wl) = true ↔ wl = true ∨ hi base ≠ hi ea := by simp [crossed, or_comm]
  by_cases h : (crossed base ea || wl) = true
  · rw [if_pos (hdue.mp h)]
    exact if_pos h
  · rw [if_neg (mt hdue.mpr h)]
    exact if_neg h

/-- The two operand reads of an absolute mode. -/
theorem operandFetch_operandFetch_eq (s : State) :
    s.operandFetch.operandFetch = afterMode 2 (.read (s.regs.pc + 1) :: .read s.regs.pc :: s.history) s := by
  rw [afterMode, ← add_one_add_one_eq]
  rfl

theorem afterMode_x (n : Word) (h : List BusAccess) (s : State) : (afterMode n h s).regs.x = s.regs.x := rfl

theorem afterMode_y (n : Word) (h : List BusAccess) (s : State) : (afterMode n h s).regs.y = s.regs.y := rfl

theorem indexCycle_afterMode (wl : Bool) (base ea n : Word) (h : List BusAccess) (s : State) :
    indexCycle wl base ea (afterMode n h s) =
      afterMode n (if wl = true ∨ hi base ≠ hi ea then .read (cat (hi base) (lo ea)) :: h else h) s :=
  indexCycle_eq wl base ea _

/-- Settles O21: two operand reads, the sum mod 65536, and the extra cycle. -/
theorem absoluteModesAddTheIndex : Obligations.AbsoluteModesAddTheIndex := by
  unfold Obligations.AbsoluteModesAddTheIndex
  intro wl a s two
  refine ⟨congrArg (Prod.mk a) (operandFetch_operandFetch_eq s), ?_⟩
  rintro index m (⟨rfl, rfl⟩ | ⟨rfl, rfl⟩) ea
  · have hea : a + zext16 s.regs.x = ea := add_zext16_eq_ofNat_mod a _
    simp only [resolve, operandFetch_operandFetch_eq, afterMode_x, hea, indexCycle_afterMode]
    rfl
  · have hea : a + zext16 s.regs.y = ea := add_zext16_eq_ofNat_mod a _
    simp only [resolve, operandFetch_operandFetch_eq, afterMode_y, hea, indexCycle_afterMode]
    rfl

/-- Settles O22: the pointer is the sum mod 256, and both its addresses are zero-extended bytes. -/
theorem indexedIndirectReadsPageZero : Obligations.IndexedIndirectReadsPageZero := by
  unfold Obligations.IndexedIndirectReadsPageZero
  intro wl p s
  dsimp only
  simp only [← add_eq_ofNat_mod, ← zext16_eq_cat]
  rfl

/-- Settles O23: both pointer addresses are zero-extended bytes, Y is added mod 65536, and the extra cycle is that of
the absolute modes. -/
theorem indirectIndexedAddsY : Obligations.IndirectIndexedAddsY := by
  unfold Obligations.IndirectIndexedAddsY
  intro wl p s h1 low high base ea h3
  have hea : base + zext16 s.regs.y = ea := add_zext16_eq_ofNat_mod base _
  have hresolve : resolve wl (.izy p) s =
      (base + zext16 s.regs.y, indexCycle wl base (base + zext16 s.regs.y) (afterMode 1 h3 s)) := by
    simp only [base, high, low, h3, h1, ← zext16_eq_cat]
    rfl
  rw [hresolve, hea, indexCycle_afterMode, show hi base = high from hi_cat high low]

end Sys2Proof
end

section
/-! Overflow and carry of the binary addition and subtraction (40_operations.md R142). -/

namespace Sys2Proof

open Sys2Proof.Machine Sys2Proof.Claims

theorem getLsbD_seven_eq_decide (b : Byte) : b.getLsbD 7 = decide (128 ≤ b.toNat) :=
  (BitVec.msb_eq_getLsbD_last b).symm.trans (BitVec.msb_eq_decide b)

theorem toInt_eq_ite (b : Byte) : b.toInt = if b.toNat < 128 then (b.toNat : Int) else (b.toNat : Int) - 256 := by
  rw [BitVec.toInt_eq_toNat_cond]
  split <;> split <;> omega

/-- V is set where the sum of the two signed bytes and the carry is no signed byte: then the sign of the result differs
from both. -/
theorem binaryAdd_v_iff (a m : Byte) (c : Bool) :
    (binaryAdd a m c).v = true ↔ (a.toInt + m.toInt + c.toNat < -128 ∨ 127 < a.toInt + m.toInt + c.toNat) := by
  have ha := a.isLt
  have hm := m.isLt
  have hc : c.toNat ≤ 1 := Bool.toNat_le c
  simp only [binaryAdd, BitVec.getLsbD_and, BitVec.getLsbD_xor, Bool.and_eq_true, bne_iff_ne, ne_eq]
  simp only [getLsbD_seven_eq_decide, decide_eq_decide, BitVec.toNat_ofNat, toInt_eq_ite]
  split <;> split <;> omega

theorem binaryAdd_c_iff (a m : Byte) (c : Bool) :
    (binaryAdd a m c).c = true ↔ 255 < a.toNat + m.toNat + c.toNat := decide_eq_true_iff

theorem toInt_not_eq (m : Byte) : (~~~m).toInt = -m.toInt - 1 := by
  have hm := m.isLt
  rw [toInt_eq_ite, toInt_eq_ite, BitVec.toNat_not]
  split <;> split <;> omega

/-- Settles O29: the addition by the signs of its operands, the subtraction as the addition of the complement. -/
theorem overflowIsTheSignedOverflow : Obligations.OverflowIsTheSignedOverflow := by
  unfold Obligations.OverflowIsTheSignedOverflow
  intro a m c borrow
  refine ⟨binaryAdd_v_iff a m c, binaryAdd_c_iff a m c, ?_, (binarySub_spec a m c).2.1⟩
  have hborrow : (c.toNat : Int) = 1 - borrow := by cases c <;> rfl
  rw [binarySub_eq_binaryAdd_not, binaryAdd_v_iff, toInt_not_eq, hborrow]
  omega

end Sys2Proof
end

section
/-! The composed cycle counts of all instructions (42_compiler.md R195). -/

namespace Sys2Proof

open Sys2Proof.Machine Sys2Proof.Claims

theorem rowOf_opcode_cycles (i : Instr) : (rowOf i.opcode).map Row.cycles = some (composedCycles i) := by
  obtain ⟨row, hrow, hentry⟩ := Option.map_eq_some_iff.mp (entryOf_opcode i)
  obtain ⟨hop, hmode⟩ := Entry.mk.inj hentry
  rw [hrow, Option.map_some, composedCycles_eq_cycles (List.mem_of_find?_eq_some hrow) hop.symm hmode.symm]

/-- An instruction whose operation's line is that of the table makes as many requests as the table says. -/
theorem exec_history_of_encodingLine {i : Instr} (h : encodingLine i.op (tableLine i.op)) (s : State) :
    ∃ t, exec i s = .next t ∧ t.history.length = s.history.length + composedCycles i + indexExtra i s := by
  obtain ⟨t, c, ht, hline, hlength⟩ := h.1 i s rfl
  obtain ⟨row, hrow, hop, he⟩ := mem_tableLine.mp hline
  obtain ⟨-, hmode, hcycles⟩ : row.opcode = i.opcode ∧ row.mode = i.operand.mode ∧ row.cycles = c := by simpa using he
  exact ⟨t, ht, by rw [hlength, composedCycles_eq_cycles hrow hop.symm hmode.symm, hcycles]⟩

theorem exists_isReadFunction {op : Op} (hop : op ∈ readOps) : ∃ f, IsReadFunction op f := by
  simp only [readOps, List.mem_cons, List.not_mem_nil, or_false] at hop
  rcases hop with rfl | rfl | rfl | rfl | rfl | rfl | rfl | rfl | rfl | rfl | rfl | rfl
  · exact ⟨_, isReadFunction_lda⟩
  · exact ⟨_, isReadFunction_ldx⟩
  · exact ⟨_, isReadFunction_ldy⟩
  · exact ⟨_, isReadFunction_and⟩
  · exact ⟨_, isReadFunction_ora⟩
  · exact ⟨_, isReadFunction_eor⟩
  · exact ⟨_, isReadFunction_adc⟩
  · exact ⟨_, isReadFunction_sbc⟩
  · exact ⟨_, isReadFunction_cmp⟩
  · exact ⟨_, isReadFunction_cpx⟩
  · exact ⟨_, isReadFunction_cpy⟩
  · exact ⟨_, isReadFunction_bit⟩

/-- The operations of the classes `read`, `write` and `rmw` (30_encoding.md R74). -/
def accessOps : List Op := readOps ++ writeOps ++ rmwOps

theorem encodingLine_tableLine {op : Op} (hop : op ∈ accessOps) : encodingLine op (tableLine op) := by
  simp only [accessOps, List.mem_append] at hop
  obtain (hread | hwrite) | hmodify := hop
  · obtain ⟨f, hf⟩ := exists_isReadFunction hread
    exact encodingLine_of_read hf (.refl _)
  · exact encodingLine_of_write hwrite (.refl _)
  · exact encodingLine_of_modify hmodify (.refl _)

/-- A branch makes two requests, and the extra ones where it is taken (43_handbuilt.md R220). -/
theorem exec_branch_history {i : Instr} {f : Flag} {v : Bool} {off : Byte} (htest : branchTest i.op = some (f, v))
    (ho : i.operand = .rel off) (s : State) :
    ∃ t, exec i s = .next t ∧ t.history.length = s.history.length + 2 + branchExtra i s := by
  obtain ⟨cond, hc, hcond⟩ := compositionOf_of_branchTest htest i.operand.mode
  have hflag : cond s.regs.incPc.incPc = true ↔ s.regs.flag f = v := hcond _
  have hexec : exec i s = branch cond off s := by rw [exec_eq_runComposition, Instr.entry, hc, ho]; rfl
  have hextra : branchExtra i s = if s.regs.flag f = v then
      1 + crossCycle (s.regs.pc + 2) (branchTarget (s.regs.pc + 2) off) else 0 := by
    simp only [branchExtra, htest, ho]
    rfl
  rw [hexec, hextra]
  by_cases htaken : s.regs.flag f = v
  · refine ⟨_, branch_of_cond (hflag.mpr htaken) off, ?_⟩
    rw [indexCycle_false_history_length, if_pos htaken]
    simp only [List.length_cons]
    omega
  · refine ⟨_, branch_of_not_cond (mt hflag.mp htaken) off, ?_⟩
    rw [if_neg htaken]
    rfl

/-- The other instructions make the requests of their hand-built machine or of the single cycle. -/
theorem exec_history_of_not_mem_accessOps {i : Instr} (h : decide (i.op ∈ accessOps) = false) (s : State) :
    ∃ t, exec i s = .next t ∧ t.history.length = s.history.length + composedCycles i + branchExtra i s := by
  cases i with
  | bcc off | bcs off | beq off | bmi off | bne off | bpl off | bvc off | bvs off =>
    exact exec_branch_history rfl rfl s
  | clc | cld | cli | clv | dex | dey | inx | iny | nop | sec | sed | sei | tax | tay | tsx | txa | txs | tya =>
    exact ⟨_, exec_implied rfl s, rfl⟩
  | jmpAbs a => exact ⟨_, (jumpsReplaceThePc a s).1.2, rfl⟩
  | jmpInd a => exact ⟨_, (jumpsReplaceThePc a s).2.2, rfl⟩
  | jsr a =>
    obtain ⟨-, t, ht, -, hhist, -⟩ := jsrPushesTheReturnAddress a s
    exact ⟨t, ht, by rw [hhist]; rfl⟩
  | rts => exact ⟨_, (rtsReturnsPastThePulledAddress s).2, rfl⟩
  | rti => exact ⟨_, (rtiRestoresStatusAndPc s).2, rfl⟩
  | brk pad =>
    obtain ⟨-, t, ht, -, hhist, -⟩ := brkPushesAndVectors pad s
    exact ⟨t, ht, by rw [hhist]; rfl⟩
  | pha =>
    obtain ⟨t, ht, -, -, hhist, -⟩ := exec_push (i := .pha) rfl s
    exact ⟨t, ht, by rw [hhist]; rfl⟩
  | php =>
    obtain ⟨t, ht, -, -, hhist, -⟩ := exec_push (i := .php) rfl s
    exact ⟨t, ht, by rw [hhist]; rfl⟩
  | pla | plp => exact ⟨_, exec_pull rfl s, rfl⟩
  | _ => cases h

/-- Settles O13: by the table's line for the classes `read`, `write` and `rmw`, machine by machine for the others. -/
theorem everyInstructionTakesItsCycles : Obligations.EveryInstructionTakesItsCycles := by
  unfold Obligations.EveryInstructionTakesItsCycles
  intro i s
  by_cases hop : i.op ∈ accessOps
  · have hnoTest : ∀ op ∈ accessOps, branchTest op = none := by decide
    obtain ⟨t, ht, hlength⟩ := exec_history_of_encodingLine (encodingLine_tableLine hop) s
    have hextra : branchExtra i s = 0 := by simp only [branchExtra, hnoTest _ hop]
    exact ⟨t, ht, by rw [hlength, hextra, Nat.add_zero], rowOf_opcode_cycles i⟩
  · obtain ⟨t, ht, hlength⟩ := exec_history_of_not_mem_accessOps (decide_eq_false hop) s
    have hread : i.op ∉ readOps := fun h => hop (List.mem_append_left _ (List.mem_append_left _ h))
    exact ⟨t, ht, by rw [hlength, indexExtra_of_not_mem_readOps hread, Nat.add_zero], rowOf_opcode_cycles i⟩

end Sys2Proof
end

section
/-! Round trips over the stack: what a push stores is what the pull that follows reads (43_handbuilt.md R210 to R217).
-/

namespace Sys2Proof

open Sys2Proof.Machine Sys2Proof.Claims

/-- On plain memory a state with the memory of `t` is answered the byte `t` has stored. -/
theorem byteAnswered_of_byteStored {s t u : State} {w a : Word} {v : Byte} (h : byteStored w v s t)
    (hwf : s.mem.wf = true) (hplain : s.plain) (hmem : u.mem = t.mem) (hhost : u.hostRegions = s.hostRegions)
    (ha : a = w) (earlier : List BusAccess) : byteAnswered u earlier a = v := by
  have hnoHost : s.hostAnswers w = false := by simp [State.hostAnswers, show s.hostRegions = [] from hplain]
  rw [byteAnswered_of_plain (hhost.trans hplain), hmem, ha, h hwf hnoHost]

/-- RTS goes past the address whose bytes it is answered above the stack address. -/
theorem exec_rts_of_answered {s : State} {w : Word} (hlow : ∀ h, byteAnswered s h (cat 0x01 (s.regs.s + 1)) = lo w)
    (hhigh : ∀ h, byteAnswered s h (cat 0x01 (s.regs.s + 2)) = hi w) :
    ∃ u, exec .rts s = .next u ∧ u.regs = { s.regs with s := s.regs.s + 2, pc := w + 1 } := by
  refine ⟨_, (rtsReturnsPastThePulledAddress s).2, ?_⟩
  simp only [hlow, hhigh, cat_hi_lo]

/-- RTI takes P and PC from the bytes it is answered above the stack address. -/
theorem exec_rti_of_answered {s : State} {d : Byte} {w : Word}
    (hp : ∀ h, byteAnswered s h (cat 0x01 (s.regs.s + 1)) = d)
    (hlow : ∀ h, byteAnswered s h (cat 0x01 (s.regs.s + 2)) = lo w)
    (hhigh : ∀ h, byteAnswered s h (cat 0x01 (s.regs.s + 3)) = hi w) :
    ∃ u, exec .rti s = .next u ∧
      u.regs = { s.regs with s := s.regs.s + 3, p := (d ||| 0x20) &&& 0xEF, pc := w } := by
  refine ⟨_, (rtiRestoresStatusAndPc s).2, ?_⟩
  simp only [hp, hlow, hhigh, cat_hi_lo]

/-- Settles O45: the two bytes RTS pulls are those JSR stored, the address before the next instruction. -/
theorem rtsAfterJsrReturns : Obligations.RtsAfterJsrReturns := by
  unfold Obligations.RtsAfterJsrReturns
  intro target s t entry hwf hplain ht
  obtain ⟨-, t', ht', ⟨-, hhost⟩, -, hregs, hhigh, hlow, -⟩ := jsrPushesTheReturnAddress target s
  cases ht.symm.trans ht'
  have hs : t.regs.s = s.regs.s - 2 := by rw [hregs]
  have hs1 : t.regs.s + 1 = s.regs.s - 1 := by rw [hs]; bv_omega
  have hs2 : t.regs.s + 2 = s.regs.s := by rw [hs, BitVec.sub_add_cancel]
  obtain ⟨u, hu, huregs⟩ := exec_rts_of_answered (s := { t with regs := { t.regs with pc := entry } })
    (byteAnswered_of_byteStored hlow hwf hplain rfl hhost (congrArg _ hs1))
    (byteAnswered_of_byteStored hhigh hwf hplain rfl hhost (congrArg _ hs2))
  have hpc : s.regs.pc + 2 + 1 = s.regs.pc + 3 := by rw [BitVec.add_assoc]; rfl
  refine ⟨u, hu, ?_⟩
  rw [huregs, hpc]
  simp only [hregs, BitVec.sub_add_cancel]

/-- The bit B is cleared by the pull, so its value in the pushed byte does not matter (92_eei_decisions.md D9). -/
theorem pulled_pushed_status (p : Byte) : ((p ||| 0x30) ||| 0x20) &&& 0xEF = (p ||| 0x20) &&& 0xEF := by
  apply BitVec.eq_of_getLsbD_eq
  intro k hk
  interval_cases k <;> simp

/-- Settles O46: the three bytes RTI pulls are those BRK stored. -/
theorem rtiAfterBrkReturns : Obligations.RtiAfterBrkReturns := by
  unfold Obligations.RtiAfterBrkReturns
  intro pad s t entry hwf hplain ht
  obtain ⟨-, t', ht', ⟨-, hhost⟩, -, hregs, hhigh, hlow, hp, -⟩ := brkPushesAndVectors pad s
  cases ht.symm.trans ht'
  have hs : t.regs.s = s.regs.s - 3 := by rw [hregs]
  have hs1 : t.regs.s + 1 = s.regs.s - 2 := by rw [hs]; bv_omega
  have hs2 : t.regs.s + 2 = s.regs.s - 1 := by rw [hs]; bv_omega
  have hs3 : t.regs.s + 3 = s.regs.s := by rw [hs, BitVec.sub_add_cancel]
  obtain ⟨u, hu, huregs⟩ := exec_rti_of_answered (s := { t with regs := { t.regs with pc := entry } })
    (byteAnswered_of_byteStored hp hwf hplain rfl hhost (congrArg _ hs1))
    (byteAnswered_of_byteStored hlow hwf hplain rfl hhost (congrArg _ hs2))
    (byteAnswered_of_byteStored hhigh hwf hplain rfl hhost (congrArg _ hs3))
  refine ⟨u, hu, ?_⟩
  rw [huregs, pulled_pushed_status]
  simp only [hregs, BitVec.sub_add_cancel]

/-- Pulling the pushed P changes it nowhere but in the bits B and 5. -/
theorem pulled_status_eq_iff (r : RegFile) :
    (r.p ||| 0x20) &&& 0xEF = r.p ↔ r.flag .b = false ∧ r.p.getLsbD 5 = true := by
  have hb : r.flag .b = r.p.getLsbD 4 := by simp [RegFile.flag, RegFile.readP, Flag.bit]
  rw [hb]
  constructor
  · intro h
    rw [← h]
    simp
  · intro ⟨h4, h5⟩
    rw [BitVec.getLsbD_eq_getElem (by decide)] at h4
    apply BitVec.eq_of_getLsbD_eq
    intro k hk
    interval_cases k <;> simp [h4, h5]

/-- Settles O47: PLP pulls the byte PHP stored. -/
theorem plpAfterPhpRestoresStatus : Obligations.PlpAfterPhpRestoresStatus := by
  unfold Obligations.PlpAfterPhpRestoresStatus
  intro s t hwf hplain ht
  obtain ⟨t', ht', hregs, ⟨-, hhost⟩, -, hstored, -⟩ := exec_push (i := .php) rfl s
  cases ht.symm.trans ht'
  have hs1 : t.regs.s + 1 = s.regs.s := by rw [hregs, BitVec.sub_add_cancel]
  have hd := byteAnswered_of_byteStored hstored hwf hplain rfl hhost (congrArg stackAddress hs1)
  have hpushed : opPhp s.regs.incPc = s.regs.p ||| 0x30 := pushedP_eq _
  have hpc : s.regs.pc + 1 + 1 = s.regs.pc + 2 := add_one_add_one_eq _
  have huregs : opPlp (opPhp s.regs.incPc) { t.regs with s := t.regs.s + 1, pc := t.regs.pc + 1 } =
      { s.regs with pc := s.regs.pc + 2, p := (s.regs.p ||| 0x20) &&& 0xEF } := by
    rw [opPlp, pullP_eq, hpushed, pulled_pushed_status]
    simp only [hregs, BitVec.sub_add_cancel, hpc]
  refine ⟨_, exec_pull (i := .plp) rfl t, ?_⟩
  rw [hd, huregs]
  exact ⟨rfl, pulled_status_eq_iff s.regs⟩

end Sys2Proof
end
